-- ==== Sys2Proof/Word.lean ====
section
/-! DEFINITION. The byte, the frame and the payload: the only data widths the frame codec moves
(spec/00_scope.md R9, spec/10_state.md R25, R26, R34). -/

namespace Sys2Proof

/-- "A byte is 8 bits" (R9). -/
abbrev Byte := BitVec 8

/-- "A frame value is a sequence of exactly 32 bytes F[0] .. F[31]" (R25, R26). -/
abbrev Frame := Vector Byte 32

/-- The 31 bytes after a frame's header, and the width of `DEC_PAYLOAD` and of the request's
`payload` operand (R34, R57, R76). -/
abbrev Payload := Vector Byte 31

/-- The 32 zero bytes `TX_FRAME` holds after reset (R39). -/
def Frame.zero : Frame := Vector.replicate 32 0#8

/-- The 31 zero bytes `DEC_PAYLOAD` holds after reset (R39). -/
def Payload.zero : Payload := Vector.replicate 31 0#8

end Sys2Proof
end

