-- ==== Sys2Proof/Config.lean ====
section
/-! DEFINITION. What the configuration fixes for a whole run (spec/00_scope.md R7, R8): the byte
order, the job codes, the duty limit and the two settle delays. -/

namespace Sys2Proof

/-- The byte order of multi-byte fields, "a configured parameter (big or little)" (R7, R24). -/
inductive Endian where
  | little
  | big
  deriving DecidableEq, Repr, Inhabited

/-- The seven jobs the source names (R7, R72). -/
inductive Job where
  | initPwm
  | setDuty
  | restart
  | ledToggle
  | getState
  | getFreq
  | getDuty
  deriving DecidableEq, Repr

/-- The four commands: "a job with a defined payload layout" (R13). -/
inductive Command where
  | initPwm
  | setDuty
  | restart
  | ledToggle
  deriving DecidableEq, Repr

/-- The job of a command (R13). -/
def Command.job : Command → Job
  | .initPwm => .initPwm
  | .setDuty => .setDuty
  | .restart => .restart
  | .ledToggle => .ledToggle

/-- `JOB_CODE`: a 3-bit code for each job, no two jobs sharing one (R7, R8). The code table carries
its own injectivity, so a table that R8 forbids cannot be written. -/
structure JobCodes where
  initPwm : BitVec 3
  setDuty : BitVec 3
  restart : BitVec 3
  ledToggle : BitVec 3
  getState : BitVec 3
  getFreq : BitVec 3
  getDuty : BitVec 3
  distinct : [initPwm, setDuty, restart, ledToggle, getState, getFreq, getDuty].Nodup := by decide
  deriving DecidableEq, Repr

/-- `JOB_CODE(job)` (R72). -/
def JobCodes.code (jc : JobCodes) : Job → BitVec 3
  | .initPwm => jc.initPwm
  | .setDuty => jc.setDuty
  | .restart => jc.restart
  | .ledToggle => jc.ledToggle
  | .getState => jc.getState
  | .getFreq => jc.getFreq
  | .getDuty => jc.getDuty

/-- The default `JOB_CODE` of R72: the listing order of the jobs starting at 1, code 0 unassigned. -/
def JobCodes.listed : JobCodes where
  initPwm := 1
  setDuty := 2
  restart := 3
  ledToggle := 4
  getState := 5
  getFreq := 6
  getDuty := 7

/-- The parameters the operations read beside the byte order (R7): `JOB_CODE`, and `DUTY_LIMIT`, an
"integer, 0 to 65535". How they reach an operation is log entry 1 (DESIGN CHOICE). -/
structure Params where
  jobCode : JobCodes
  dutyLimit : Fin 65536
  deriving DecidableEq, Repr

/-- The values R7 gives: the default `JOB_CODE` of R72 and `DUTY_LIMIT` = 4096. -/
def Params.listed : Params where
  jobCode := .listed
  dutyLimit := 4096

/-- `ENDIAN`: "configured; no default" (R7). A constant with no body, so no proof knows which order a
run is configured with (log entry 2). -/
opaque Config.endian : Endian

/-- `SETTLE_SHORT`, a "duration, lower bound" whose exact value is a parameter (R7, R173), as a number
of unnamed time units (log entry 10). No operation of the block reads it. -/
opaque Config.settleShort : Nat

/-- `SETTLE_LONG`, as `Config.settleShort` (R7, R173, log entry 10). -/
opaque Config.settleLong : Nat

end Sys2Proof
end

