-- ==== Sys2Proof/Syntax.lean ====
section
/-! DEFINITION. The syntax: the instructions (every row of spec/opcode_table.json), the words that
carry them (the request port's fields, spec/30_encoding.md R76, and a bare 32-byte frame), what a
host may do at the port (spec/70_reset_and_hazards.md R181), and the assembler's lines (R83, R84). -/

namespace Sys2Proof

/-- One constructor per row of the opcode table. The first eight are the operations of the request
port (R77); their operands are the request fields the operation reads (R76). The last eight are the
table's frame headers (format HDR): a frame whose byte 0 the row matches, given by its payload_len and
its bytes 1 to 31; the row fixes the job_id. A frame is met by the block only in its decoder (R130),
so a header row's meaning is FRM.DEC of that frame (log entry 4, DESIGN CHOICE). -/
inductive Instr where
  /-- FRM.ENC, op 0 (R100). -/
  | frmEnc (job : BitVec 3) (len : BitVec 6) (payload : Payload)
  /-- CMD.INIT_PWM, op 1 (R110). `duty` is two's complement (R76). -/
  | cmdInitPwm (freq duty : BitVec 32) (pin channel timer : Byte)
  /-- CMD.SET_DUTY, op 2 (R113). `duty` is two's complement (R76). -/
  | cmdSetDuty (duty : BitVec 32) (pin channel : Byte)
  /-- CMD.RESTART, op 3 (R117). -/
  | cmdRestart
  /-- CMD.LED_TOGGLE, op 4 (R119). -/
  | cmdLedToggle
  /-- FRM.DEC, op 5 (R138). -/
  | frmDec (frame : Frame)
  /-- RESERVED.6, op 6 (R158). -/
  | reserved6
  /-- RESERVED.7, op 7 (R158). -/
  | reserved7
  /-- HDR.INIT_PWM: job_id `JOB_CODE(INIT_PWM)`, payload_len 9. -/
  | hdrInitPwm (len : BitVec 5) (body : Payload)
  /-- HDR.SET_DUTY: job_id `JOB_CODE(SET_DUTY)`, payload_len 4. -/
  | hdrSetDuty (len : BitVec 5) (body : Payload)
  /-- HDR.RESTART: job_id `JOB_CODE(RESTART)`, payload_len 0. -/
  | hdrRestart (len : BitVec 5) (body : Payload)
  /-- HDR.LED_TOGGLE: job_id `JOB_CODE(LED_TOGGLE)`, payload_len 0. -/
  | hdrLedToggle (len : BitVec 5) (body : Payload)
  /-- HDR.GET_STATE: job_id `JOB_CODE(GET_STATE)`, any payload_len. -/
  | hdrGetState (len : BitVec 5) (body : Payload)
  /-- HDR.GET_FREQ: job_id `JOB_CODE(GET_FREQ)`, any payload_len. -/
  | hdrGetFreq (len : BitVec 5) (body : Payload)
  /-- HDR.GET_DUTY: job_id `JOB_CODE(GET_DUTY)`, any payload_len. -/
  | hdrGetDuty (len : BitVec 5) (body : Payload)
  /-- HDR.UNASSIGNED_0: the job_id that `JOB_CODE` gives no job (0 by default), any payload_len. -/
  | hdrUnassigned0 (len : BitVec 5) (body : Payload)
  deriving DecidableEq, Repr

/-- The request port's fields with the widths of R76; `payload` and `frame` are carried as bit
vectors with byte i at bits [8i+7:8i]. "Fields of the request that a line does not give are 0" (R83). -/
structure Request where
  op : BitVec 3
  job : BitVec 3 := 0#3
  len : BitVec 6 := 0#6
  payload : BitVec 248 := 0#248
  freq : BitVec 32 := 0#32
  duty : BitVec 32 := 0#32
  pin : BitVec 8 := 0#8
  channel : BitVec 8 := 0#8
  timer : BitVec 8 := 0#8
  frame : BitVec 256 := 0#256
  deriving DecidableEq, Repr

/-- What a host presents at the port, in the opcode table's two formats: REQ, a request record (R76),
and HDR, a bare frame (log entry 4). -/
inductive PortItem where
  | request (r : Request)
  | frame (F : Frame)
  deriving DecidableEq, Repr

/-- What a host may do between operations that changes the block (R181): present an item, or assert
reset. (A register read changes nothing, R37: it is `State.observe`.) -/
inductive HostAction where
  | present (item : PortItem)
  | reset
  deriving DecidableEq, Repr

/-- Why a string of bits or bytes is no port item. -/
inductive DecodeReject where
  /-- A table word with a bit set at or above its stated width. -/
  | wordWiderThanStated
  /-- Not "exactly 32 bytes": there is no partial frame and no resynchronisation (R130). -/
  | notThirtyTwoBytes
  deriving DecidableEq, Repr

/-- A job operand of the assembler: a name or a number (R83). -/
inductive JobRef where
  | name (j : Job)
  | code (n : Nat)
  deriving DecidableEq, Repr

/-- One request line of the assembler (R83). Numbers are unbounded here; `assemble` refuses one that
its field cannot hold (R76). -/
inductive AsmLine where
  | frmEnc (job : JobRef) (len : Nat) (bytes : List Nat)
  | cmdInitPwm (freq : Nat) (duty : Int) (pin channel timer : Nat)
  | cmdSetDuty (duty : Int) (pin channel : Nat)
  | cmdRestart
  | cmdLedToggle
  | frmDec (bytes : List Nat)
  deriving DecidableEq, Repr

/-- The pseudo-instructions of R84. -/
inductive PseudoLine where
  | frmSend (job : JobRef) (bytes : List Nat)
  | cmdGetState (b0 b1 : Nat)
  | cmdGetFreq (b0 b1 : Nat)
  | cmdGetDuty (b0 b1 : Nat)
  | cmdStop (pin channel : Nat)
  deriving DecidableEq, Repr

/-- A line of assembler text: a request or a pseudo-instruction (R83, R84). -/
inductive SourceLine where
  | line (l : AsmLine)
  | pseudo (p : PseudoLine)
  deriving DecidableEq, Repr

/-- The tokens of a line of assembler text (R83). -/
inductive Token where
  | word (w : List Char)
  | comma
  | openList
  | closeList
  deriving DecidableEq, Repr

/-- An operand of a line of assembler text: a number or a name, or a bracketed list of numbers (R83). -/
inductive TextOperand where
  | word (w : List Char)
  | list (ns : List Nat)
  deriving DecidableEq, Repr

/-- What the reader of operands has seen last. -/
inductive OperandMode where
  | start
  | afterOperand
  | afterComma
  | listOpened
  | afterNumber (acc : List Nat)
  | afterListComma (acc : List Nat)
  deriving DecidableEq, Repr

/-- Why an assembler line is refused. -/
inductive AsmError where
  /-- No operation or pseudo-instruction has this spelling (R83, R84). -/
  | unknownMnemonic
  /-- The operands are not of the form R83 gives the line. -/
  | badOperands
  /-- More bytes are listed than R83 allows (31 for a payload, 32 for a frame). -/
  | tooManyBytes
  /-- "A value wider than its field cannot be presented at all" (R76). -/
  | valueTooWide
  deriving DecidableEq, Repr

end Sys2Proof
end

