-- ==== Sys2Proof/WellFormed.lean ====
section
/-! DEFINITION. Which instructions have a word: the four command header rows of spec/opcode_table.json
fix all eight bits of byte 0, so their payload_len is the command's (spec/30_encoding.md R73). Every
other operand has the width of its field by its type (R76), so nothing is left to check there. -/

namespace Sys2Proof

/-- The payload_len of a well-formed command header is `LEN(job)`: 9, 4, 0 and 0 (R73). -/
def Instr.wellFormed : Instr → Bool
  | .frmEnc _ _ _ => true
  | .cmdInitPwm _ _ _ _ _ => true
  | .cmdSetDuty _ _ _ => true
  | .cmdRestart => true
  | .cmdLedToggle => true
  | .frmDec _ => true
  | .reserved6 => true
  | .reserved7 => true
  | .hdrInitPwm len _ => len == 9#5
  | .hdrSetDuty len _ => len == 4#5
  | .hdrRestart len _ => len == 0#5
  | .hdrLedToggle len _ => len == 0#5
  | .hdrGetState _ _ => true
  | .hdrGetFreq _ _ => true
  | .hdrGetDuty _ _ => true
  | .hdrUnassigned0 _ _ => true

end Sys2Proof
end

