-- ==== Sys2Proof/Decode.lean ====
section
/-! DEFINITION. From words to instructions and back: the byte packing of the port's operands
(spec/10_state.md R25, spec/30_encoding.md R76), the header byte (R27, R71), the decoder, the encoder
and the opcode table's own rows. -/

namespace Sys2Proof

/-! ### Bytes and bit vectors -/

/-- `val_Little(b)` of R11: the sum of `uint(b[k]) * 256^k`. It also reads a packed operand, whose byte
i stands at bits [8i+7:8i] (R25, R76). -/
def valLittle : List Byte → Nat
  | [] => 0
  | b :: bs => b.toNat + 256 * valLittle bs

/-- A packed operand of the request port from its bytes (R76). -/
def packBytes (m : Nat) (bs : List Byte) : BitVec m := BitVec.ofNat m (valLittle bs)

/-- The bytes of a packed operand: byte i is `V[8i+7:8i]` (R25, R76). -/
def unpackBytes (n : Nat) {m : Nat} (v : BitVec m) : Vector Byte n :=
  Vector.ofFn fun k => v.extractLsb' (8 * k.val) 8

/-! ### The header byte -/

/-- `job_id : payload_len`, three bits above five (R27, R71). -/
def headerByte (j : BitVec 3) (L : BitVec 5) : Byte := j ++ L

/-- `job_id(F) = F[0][7:5]` (R27). -/
def headerJob (F : Frame) : BitVec 3 := F[0].extractLsb' 5 3

/-- `payload_len(F) = F[0][4:0]` (R27). -/
def headerLen (F : Frame) : BitVec 5 := F[0].extractLsb' 0 5

/-- A frame from its header fields and its bytes 1 to 31. -/
def headerFrame (j : BitVec 3) (L : BitVec 5) (body : Payload) : Frame :=
  Vector.ofFn fun k => if h : k.val = 0 then headerByte j L else body[k.val - 1]

/-- Bytes 1 to 31 of a frame. -/
def bodyOf (F : Frame) : Payload := Vector.ofFn fun k => F[k.val + 1]

/-! ### Jobs and their codes -/

/-- The job a code selects (R72); none for the code `JOB_CODE` leaves unassigned. At most one job
answers, since no two share a code (R8). -/
def jobOf? (jc : JobCodes) (j : BitVec 3) : Option Job :=
  if j = jc.initPwm then some .initPwm
  else if j = jc.setDuty then some .setDuty
  else if j = jc.restart then some .restart
  else if j = jc.ledToggle then some .ledToggle
  else if j = jc.getState then some .getState
  else if j = jc.getFreq then some .getFreq
  else if j = jc.getDuty then some .getDuty
  else none

/-- The code that selects no job. Seven distinct codes (R8) leave exactly one of the eight; it is 0
under the default table (R72; log entry 7, DEDUCED). -/
def unassignedCode (jc : JobCodes) : BitVec 3 :=
  ([0#3, 1#3, 2#3, 3#3, 4#3, 5#3, 6#3, 7#3].find? fun c => (jobOf? jc c).isNone).getD 0#3

/-- `LEN(command)`: INIT_PWM 9, SET_DUTY 4, RESTART 0, LED_TOGGLE 0 (R73). -/
def commandLen : Command → BitVec 5
  | .initPwm => 9#5
  | .setDuty => 4#5
  | .restart => 0#5
  | .ledToggle => 0#5

/-! ### The decoder -/

/-- The operation a request's `op` field selects (R77). Every code selects one; 6 and 7 are the
reserved operations. -/
def decodeRequest (r : Request) : Instr :=
  if r.op = 0#3 then .frmEnc r.job r.len (unpackBytes 31 r.payload)
  else if r.op = 1#3 then .cmdInitPwm r.freq r.duty r.pin r.channel r.timer
  else if r.op = 2#3 then .cmdSetDuty r.duty r.pin r.channel
  else if r.op = 3#3 then .cmdRestart
  else if r.op = 4#3 then .cmdLedToggle
  else if r.op = 5#3 then .frmDec (unpackBytes 32 r.frame)
  else if r.op = 6#3 then .reserved6
  else .reserved7

/-- The header row a bare frame matches (R72, R73, the table's HDR rows). A command's job_id with
another payload_len matches no row: such a frame is FRM.DEC of it, like every bare frame (log
entry 6, DESIGN CHOICE). -/
def decodeFrame (jc : JobCodes) (F : Frame) : Instr :=
  match jobOf? jc (headerJob F) with
  | some .initPwm => if headerLen F = 9#5 then .hdrInitPwm (headerLen F) (bodyOf F) else .frmDec F
  | some .setDuty => if headerLen F = 4#5 then .hdrSetDuty (headerLen F) (bodyOf F) else .frmDec F
  | some .restart => if headerLen F = 0#5 then .hdrRestart (headerLen F) (bodyOf F) else .frmDec F
  | some .ledToggle =>
    if headerLen F = 0#5 then .hdrLedToggle (headerLen F) (bodyOf F) else .frmDec F
  | some .getState => .hdrGetState (headerLen F) (bodyOf F)
  | some .getFreq => .hdrGetFreq (headerLen F) (bodyOf F)
  | some .getDuty => .hdrGetDuty (headerLen F) (bodyOf F)
  | none => .hdrUnassigned0 (headerLen F) (bodyOf F)

/-- The instruction a port item is. Every item is one: the port's fields have no other values (R76,
R77) and "header parsing is total" (R131). -/
def decode (jc : JobCodes) : PortItem → Instr
  | .request r => decodeRequest r
  | .frame F => decodeFrame jc F

/-- The instruction a string of frame bytes is; any other number of bytes is rejected by name (R130). -/
def decodeBytes (jc : JobCodes) (bs : List Byte) : Except DecodeReject Instr :=
  if h : bs.length = 32 then .ok (decode jc (.frame ⟨bs.toArray, by simpa using h⟩))
  else .error .notThirtyTwoBytes

/-! ### The encoder -/

/-- The word of an instruction: request fields for an operation, every field it does not read 0 (R76,
R77, R83), and a frame for a header row (R70, R71). -/
def encode (jc : JobCodes) : Instr → PortItem
  | .frmEnc job len payload =>
    .request { op := 0#3, job := job, len := len, payload := packBytes 248 payload.toList }
  | .cmdInitPwm freq duty pin channel timer =>
    .request { op := 1#3, freq := freq, duty := duty, pin := pin, channel := channel, timer := timer }
  | .cmdSetDuty duty pin channel =>
    .request { op := 2#3, duty := duty, pin := pin, channel := channel }
  | .cmdRestart => .request { op := 3#3 }
  | .cmdLedToggle => .request { op := 4#3 }
  | .frmDec frame => .request { op := 5#3, frame := packBytes 256 frame.toList }
  | .reserved6 => .request { op := 6#3 }
  | .reserved7 => .request { op := 7#3 }
  | .hdrInitPwm len body => .frame (headerFrame jc.initPwm len body)
  | .hdrSetDuty len body => .frame (headerFrame jc.setDuty len body)
  | .hdrRestart len body => .frame (headerFrame jc.restart len body)
  | .hdrLedToggle len body => .frame (headerFrame jc.ledToggle len body)
  | .hdrGetState len body => .frame (headerFrame jc.getState len body)
  | .hdrGetFreq len body => .frame (headerFrame jc.getFreq len body)
  | .hdrGetDuty len body => .frame (headerFrame jc.getDuty len body)
  | .hdrUnassigned0 len body => .frame (headerFrame (unassignedCode jc) len body)

/-! ### The opcode table -/

/-- A row of spec/opcode_table.json: its format (HDR or REQ), and the mask and match of its first
byte (for REQ, the `op` field in bits 2 to 0). -/
structure TableRow where
  mnemonic : String
  isHeader : Bool
  mask : Byte
  value : Byte
  deriving DecidableEq, Repr

/-- The sixteen rows, in the table's order; the header rows are those of the default `JOB_CODE`. -/
def tableRows : List TableRow :=
  [⟨"FRM.ENC", false, 0x07, 0x00⟩, ⟨"CMD.INIT_PWM", false, 0x07, 0x01⟩,
   ⟨"CMD.SET_DUTY", false, 0x07, 0x02⟩, ⟨"CMD.RESTART", false, 0x07, 0x03⟩,
   ⟨"CMD.LED_TOGGLE", false, 0x07, 0x04⟩, ⟨"FRM.DEC", false, 0x07, 0x05⟩,
   ⟨"RESERVED.6", false, 0x07, 0x06⟩, ⟨"RESERVED.7", false, 0x07, 0x07⟩] ++
  [⟨"HDR.INIT_PWM", true, 0xFF, 0x29⟩, ⟨"HDR.SET_DUTY", true, 0xFF, 0x44⟩,
   ⟨"HDR.RESTART", true, 0xFF, 0x60⟩, ⟨"HDR.LED_TOGGLE", true, 0xFF, 0x80⟩,
   ⟨"HDR.GET_STATE", true, 0xE0, 0xA0⟩, ⟨"HDR.GET_FREQ", true, 0xE0, 0xC0⟩,
   ⟨"HDR.GET_DUTY", true, 0xE0, 0xE0⟩, ⟨"HDR.UNASSIGNED_0", true, 0xE0, 0x00⟩]

/-- The row an instruction stands for. -/
def rowMnemonic : Instr → String
  | .frmEnc _ _ _ => "FRM.ENC"
  | .cmdInitPwm _ _ _ _ _ => "CMD.INIT_PWM"
  | .cmdSetDuty _ _ _ => "CMD.SET_DUTY"
  | .cmdRestart => "CMD.RESTART"
  | .cmdLedToggle => "CMD.LED_TOGGLE"
  | .frmDec _ => "FRM.DEC"
  | .reserved6 => "RESERVED.6"
  | .reserved7 => "RESERVED.7"
  | .hdrInitPwm _ _ => "HDR.INIT_PWM"
  | .hdrSetDuty _ _ => "HDR.SET_DUTY"
  | .hdrRestart _ _ => "HDR.RESTART"
  | .hdrLedToggle _ _ => "HDR.LED_TOGGLE"
  | .hdrGetState _ _ => "HDR.GET_STATE"
  | .hdrGetFreq _ _ => "HDR.GET_FREQ"
  | .hdrGetDuty _ _ => "HDR.GET_DUTY"
  | .hdrUnassigned0 _ _ => "HDR.UNASSIGNED_0"

/-- A port item's first byte, as the table numbers its bits. -/
def firstByte : PortItem → Byte
  | .request r => r.op.setWidth 8
  | .frame F => F[0]

/-- The table's format of a port item. -/
def isHeaderItem : PortItem → Bool
  | .request _ => false
  | .frame _ => true

/-- A row matches an item of its own format whose masked first byte is the row's match. -/
def rowMatches (row : TableRow) (item : PortItem) : Bool :=
  row.isHeader == isHeaderItem item && (firstByte item &&& row.mask) == row.value

/-- The port item whose bits, as the table numbers them, are `w`, every later bit 0. The two formats
number the same eight bits and a word does not say its format: a value below 8 is taken as a
request's `op` and any other as a frame's byte 0 (log entry 5, DESIGN CHOICE). -/
def itemOfTableWord (nbits w : Nat) : Except DecodeReject PortItem :=
  if 2 ^ nbits ≤ w then .error .wordWiderThanStated
  else if w < 8 then .ok (.request { op := BitVec.ofNat 3 w })
  else if nbits ≤ 256 then .ok (.frame (unpackBytes 32 (BitVec.ofNat 256 w)))
  else .error .notThirtyTwoBytes

/-- The instruction the decoder reads from a word of the opcode table; the table's header rows are
those of the default `JOB_CODE` (the rows' own note). -/
def decodeTableWord (nbits w : Nat) : Option Instr :=
  match itemOfTableWord nbits w with
  | .ok item => some (decode .listed item)
  | .error _ => none

end Sys2Proof
end

