-- ==== Sys2Proof/Machine/State.lean ====
section
/-! DEFINITION. The state of the block (spec/10_state.md R20 to R39), the reasons a step may stop, and
the state after reset. -/

namespace Sys2Proof.Machine

/-- The result codes of `STATUS` (R31). Code 6 is "never written" and has no name here, so no state
holds it (log entry 8, DEDUCED). -/
inductive Status where
  | ok
  | errRange
  | errLen
  | errJob
  | errPad
  | errOp
  | none
  deriving DecidableEq, Repr

/-- The settle class of the frame in `TX_FRAME` (R32). -/
inductive Settle where
  | short
  | long
  deriving DecidableEq, Repr

/-- Why a step would stop the machine. The block has no such reason: "Every request completes" (R151),
"never halts on a failure" (R180). No constructor, so no instruction raises one. -/
inductive Fault where
  deriving DecidableEq, Repr

/-- Why the model would refuse an instruction. -/
inductive Refusal where
  /-- Raised by an arm of `exec` that has no meaning yet (there is none). Safe: the machine stops. -/
  | notModelled (mnemonic : String)
  deriving DecidableEq, Repr

/-- The block's registers (R20), and beside them the two fields of the model's own: `cfg` and `port`.
Each register's width and reset value is listed under '## State' of INVENTORY.md. -/
structure State where
  /-- `CFG_ENDIAN`, 1 bit, read-only: the parameter `ENDIAN` made visible (R24). -/
  cfgEndian : Endian
  /-- `TX_FRAME`, 32 bytes (R29). -/
  txFrame : Frame
  /-- `TX_VALID`, 1 bit (R30). -/
  txValid : Bool
  /-- `TX_SETTLE`, 1 bit (R32). -/
  txSettle : Settle
  /-- `STATUS`, 3 bits (R31). -/
  status : Status
  /-- `DEC_JOB`, 3 bits (R33). -/
  decJob : BitVec 3
  /-- `DEC_LEN`, 5 bits (R33). -/
  decLen : BitVec 5
  /-- `DEC_PAYLOAD`, 31 bytes (R34). -/
  decPayload : Payload
  /-- `DEC_FREQ`, 32 bits (R35). -/
  decFreq : BitVec 32
  /-- `DEC_DUTY`, 16 bits (R35). -/
  decDuty : BitVec 16
  /-- `DEC_PIN`, 8 bits (R35). -/
  decPin : BitVec 8
  /-- `DEC_CHANNEL`, 8 bits (R35). -/
  decChannel : BitVec 8
  /-- `DEC_TIMER`, 8 bits (R35). -/
  decTimer : BitVec 8
  /-- `TX_LOG`, the frames emitted since reset, oldest first (R36). -/
  txLog : List Frame
  /-- The parameters `JOB_CODE` and `DUTY_LIMIT`, "an argument fixed for the whole run" (R7), which no
  step writes. The model's own field: the spec calls them no state (R20; log entry 1). -/
  cfg : Params
  /-- What the host has yet to present, first first (R58, R181). The model's own field: the spec's
  port is an input, not state (R20; log entry 3). -/
  port : List HostAction
  deriving DecidableEq, Repr

/-- The machine right after reset: the table of R39, `CFG_ENDIAN` the parameter `ENDIAN`, the other
parameters at the values R7 gives, and nothing presented yet (R170). -/
def State.reset : State where
  cfgEndian := Config.endian
  txFrame := Frame.zero
  txValid := false
  txSettle := .short
  status := .none
  decJob := 0#3
  decLen := 0#5
  decPayload := Payload.zero
  decFreq := 0#32
  decDuty := 0#16
  decPin := 0#8
  decChannel := 0#8
  decTimer := 0#8
  txLog := []
  cfg := .listed
  port := []

end Sys2Proof.Machine
end

