-- ==== Sys2Proof/Machine/Operands.lean ====
section
/-! DEFINITION. How operands are read and laid out: byte order (spec/00_scope.md R11), the framing
function (spec/40_frame_encode.md R101), the two command payloads (spec/41_commands.md R111, R115) and
the fields of a decoded command (spec/42_decode.md R137). -/

namespace Sys2Proof.Machine

/-- `bytes_E(v, n)` (R11): byte k is `v[8k+7:8k]` in the little order and `v[8(n-1-k)+7:8(n-1-k)]` in
the big one. -/
def bytesE (e : Endian) (n : Nat) {w : Nat} (v : BitVec w) : List Byte :=
  (List.range n).map fun k =>
    match e with
    | .little => v.extractLsb' (8 * k) 8
    | .big => v.extractLsb' (8 * (n - 1 - k)) 8

/-- `val_E(b)` (R11): the first byte is the least significant in the little order and the most
significant in the big one. -/
def valE (e : Endian) (bs : List Byte) : Nat :=
  match e with
  | .little => valLittle bs
  | .big => valLittle bs.reverse

/-- The framing function `Frame(j, L, p)` (R101): the header, then byte i of the payload for
i < L, then zeros. -/
def mkFrame (j : BitVec 3) (L : BitVec 5) (p : List Byte) : Frame :=
  Vector.ofFn fun k =>
    if k.val = 0 then headerByte j L
    else if k.val - 1 < L.toNat then p.getD (k.val - 1) 0#8
    else 0#8

/-- `InitPwmPayload` (R111): freq, duty, pin, channel, timer, packed. -/
def initPwmPayload (e : Endian) (freq : BitVec 32) (duty : BitVec 16) (pin channel timer : Byte) :
    List Byte :=
  bytesE e 4 freq ++ bytesE e 2 duty ++ [pin, channel, timer]

/-- `SetDutyPayload` (R115): duty, pin, channel, packed. -/
def setDutyPayload (e : Endian) (duty : BitVec 16) (pin channel : Byte) : List Byte :=
  bytesE e 2 duty ++ [pin, channel]

/-- `duty[15:0]`, equal in value to a validated duty (R78). -/
def dutyField (duty : BitVec 32) : BitVec 16 := duty.extractLsb' 0 16

/-- `DEC_PAYLOAD` of a frame: its bytes 1 to payload_len, then zeros (R132). -/
def decodedPayload (F : Frame) : Payload :=
  Vector.ofFn fun k => if k.val < (headerLen F).toNat then F[k.val + 1] else 0#8

/-- The five decoded command fields (R35). -/
structure CommandFields where
  freq : BitVec 32 := 0#32
  duty : BitVec 16 := 0#16
  pin : BitVec 8 := 0#8
  channel : BitVec 8 := 0#8
  timer : BitVec 8 := 0#8
  deriving DecidableEq, Repr

/-- The duty of a SET_DUTY frame, `val_E(F[1], F[2])` (R136, R137). -/
def setDutyValue (e : Endian) (F : Frame) : Nat := valE e [F[1], F[2]]

/-- The fields of a command's frame, 0 for each one the command lacks (the table of R137). -/
def commandFields (e : Endian) (c : Command) (F : Frame) : CommandFields :=
  match c with
  | .initPwm =>
    { freq := BitVec.ofNat 32 (valE e [F[1], F[2], F[3], F[4]])
      duty := BitVec.ofNat 16 (valE e [F[5], F[6]])
      pin := F[7], channel := F[8], timer := F[9] }
  | .setDuty =>
    { duty := BitVec.ofNat 16 (setDutyValue e F), pin := F[3], channel := F[4] }
  | .restart => {}
  | .ledToggle => {}

end Sys2Proof.Machine
end

