-- ==== Sys2Proof/Machine/Flags.lean ====
section
/-! DEFINITION. What the status bits say: the settle class (spec/10_state.md R32), the duty checks
(spec/41_commands.md R112, R114), the decoder's checks in their order (spec/42_decode.md R133 to R139)
and the register codes of `STATUS`, `TX_VALID`, `TX_SETTLE` and `CFG_ENDIAN`. -/

namespace Sys2Proof.Machine

/-- `TX_SETTLE` of a frame with job_id j: long when j is `JOB_CODE(INIT_PWM)` (R32). -/
def settleClass (jc : JobCodes) (j : BitVec 3) : Settle :=
  if j = jc.initPwm then .long else .short

/-- INIT_PWM's duty check: 0 to 65535, on the integer `sint(duty)` (R110, R112). -/
abbrev initPwmDutyOk (duty : BitVec 32) : Prop := 0 ≤ duty.toInt ∧ duty.toInt ≤ 65535

/-- SET_DUTY's duty check: `0 <= sint(duty) <= DUTY_LIMIT` (R114). -/
abbrev setDutyOk (cfg : Params) (duty : BitVec 32) : Prop :=
  0 ≤ duty.toInt ∧ duty.toInt ≤ (cfg.dutyLimit.val : Int)

/-- Every byte after the payload is 0x00 (R28, R135). -/
abbrev paddingZero (F : Frame) : Prop := ∀ k : Fin 32, (headerLen F).toNat < k.val → F[k] = 0#8

/-- The command a job code selects, if it selects one of the four (R133). -/
def commandOf? (jc : JobCodes) (j : BitVec 3) : Option Command :=
  if j = jc.initPwm then some .initPwm
  else if j = jc.setDuty then some .setDuty
  else if j = jc.restart then some .restart
  else if j = jc.ledToggle then some .ledToggle
  else none

/-- FRM.DEC's checks, first failure first: the job, the length, the padding, the range (R133 to R136,
R139). It answers the command when all pass. -/
def decodeCheck (cfg : Params) (e : Endian) (F : Frame) : Except Status Command :=
  match commandOf? cfg.jobCode (headerJob F) with
  | none => .error .errJob
  | some c =>
    if headerLen F ≠ commandLen c then .error .errLen
    else if ¬ paddingZero F then .error .errPad
    else if c = .setDuty ∧ cfg.dutyLimit.val < setDutyValue e F then .error .errRange
    else .ok c

/-- The 3-bit code of a status (R31). -/
def statusCode : Status → BitVec 3
  | .ok => 0#3
  | .errRange => 1#3
  | .errLen => 2#3
  | .errJob => 3#3
  | .errPad => 4#3
  | .errOp => 5#3
  | .none => 7#3

/-- `CFG_ENDIAN`: 0 when Little, 1 when Big (R24). -/
def endianBit : Endian → BitVec 1
  | .little => 0#1
  | .big => 1#1

/-- `TX_SETTLE`: 1 (long), 0 (short) (R32). -/
def settleBit : Settle → BitVec 1
  | .short => 0#1
  | .long => 1#1

end Sys2Proof.Machine
end

