-- ==== Sys2Proof/Machine/Ops.lean ====
section
/-! DEFINITION. The named operations over the registers: failing (spec/60_exceptions.md R150, the
block's one analogue of taking an exception; there is no return from one, R162), emitting a frame
(spec/10_state.md R36), the decoder's writes (spec/42_decode.md R131, R132, R137), reset
(spec/70_reset_and_hazards.md R170, R171) and the host's reads (R37, R180). -/

namespace Sys2Proof.Machine

/-- `fail(S)`: write `STATUS <- S` and end; what was written before stays (R150). -/
def fail (st : Status) (s : State) : State := { s with status := st }

/-- A failed encode operation: `TX_VALID <- 0`, then `fail(S)`; no emit, and `TX_FRAME` and
`TX_SETTLE` are kept (R29, R30, R150). -/
def failEncode (st : Status) (s : State) : State := fail st { s with txValid := false }

/-- A successful encode operation: `TX_FRAME`, `TX_SETTLE`, `TX_VALID`, `emit(F)` and `STATUS` (R29,
R30, R32, R36). -/
def succeedEncode (F : Frame) (settle : Settle) (s : State) : State :=
  { s with
    txFrame := F
    txSettle := settle
    txValid := true
    txLog := s.txLog ++ [F]
    status := .ok }

/-- FRM.DEC's writes before any check: `DEC_JOB`, `DEC_LEN` (R131) and `DEC_PAYLOAD` (R132). -/
def writeHeader (F : Frame) (s : State) : State :=
  { s with decJob := headerJob F, decLen := headerLen F, decPayload := decodedPayload F }

/-- The five command fields, written together (R35, R137). -/
def writeFields (f : CommandFields) (s : State) : State :=
  { s with
    decFreq := f.freq
    decDuty := f.duty
    decPin := f.pin
    decChannel := f.channel
    decTimer := f.timer }

/-- FRM.DEC of a frame (R138): the header and payload, the fields cleared, then the first failing
check's status, or the command's fields and OK. -/
def decodeInto (F : Frame) (s : State) : State :=
  let cleared := writeFields {} (writeHeader F s)
  match decodeCheck s.cfg s.cfgEndian F with
  | .error st => fail st cleared
  | .ok c => { writeFields (commandFields s.cfgEndian c F) cleared with status := .ok }

/-- A reserved operation: `STATUS <- ERR_OP` and nothing else (R158). -/
def reservedOp (s : State) : State := fail .errOp s

/-- Reset asserted between operations: every register to its value of R39, while `CFG_ENDIAN` and the
parameters keep theirs (R170, R171) and the host's later actions stay the host's (log entry 12). -/
def resetRegisters (s : State) : State :=
  { State.reset with cfgEndian := s.cfgEndian, cfg := s.cfg, port := s.port }

/-- Every register as the host reads it, at its width (R20, R37), and `TX_LOG`: the observation of a
run (R180). -/
structure Observation where
  cfgEndian : BitVec 1
  txFrame : BitVec 256
  txValid : BitVec 1
  txSettle : BitVec 1
  status : BitVec 3
  decJob : BitVec 3
  decLen : BitVec 5
  decPayload : BitVec 248
  decFreq : BitVec 32
  decDuty : BitVec 16
  decPin : BitVec 8
  decChannel : BitVec 8
  decTimer : BitVec 8
  txLog : List (BitVec 256)
  deriving DecidableEq, Repr

/-- What the host reads between operations; a read changes nothing (R37, R56). -/
def State.observe (s : State) : Observation where
  cfgEndian := endianBit s.cfgEndian
  txFrame := packBytes 256 s.txFrame.toList
  txValid := BitVec.ofBool s.txValid
  txSettle := settleBit s.txSettle
  status := statusCode s.status
  decJob := s.decJob
  decLen := s.decLen
  decPayload := packBytes 248 s.decPayload.toList
  decFreq := s.decFreq
  decDuty := s.decDuty
  decPin := s.decPin
  decChannel := s.decChannel
  decTimer := s.decTimer
  txLog := s.txLog.map fun F => packBytes 256 F.toList

end Sys2Proof.Machine
end

