-- ==== Sys2Proof/Machine/Commands.lean ====
section
/-! DEFINITION. The four command operations (spec/41_commands.md R110 to R121). -/

namespace Sys2Proof.Machine

/-- CMD.INIT_PWM (R110 to R112). -/
def execCmdInitPwm (freq duty : BitVec 32) (pin channel timer : Byte) (s : State) :
    Host.Outcome State Fault Refusal :=
  .next
    (if initPwmDutyOk duty then
      succeedEncode
        (mkFrame s.cfg.jobCode.initPwm (commandLen .initPwm)
          (initPwmPayload s.cfgEndian freq (dutyField duty) pin channel timer))
        .long s
     else failEncode .errRange s)

/-- CMD.SET_DUTY (R113 to R115). -/
def execCmdSetDuty (duty : BitVec 32) (pin channel : Byte) (s : State) :
    Host.Outcome State Fault Refusal :=
  .next
    (if setDutyOk s.cfg duty then
      succeedEncode
        (mkFrame s.cfg.jobCode.setDuty (commandLen .setDuty)
          (setDutyPayload s.cfgEndian (dutyField duty) pin channel))
        .short s
     else failEncode .errRange s)

/-- CMD.RESTART (R117): a header-only frame; it always succeeds. -/
def execCmdRestart (s : State) : Host.Outcome State Fault Refusal :=
  .next (succeedEncode (mkFrame s.cfg.jobCode.restart (commandLen .restart) []) .short s)

/-- CMD.LED_TOGGLE (R119): a header-only frame; it always succeeds. -/
def execCmdLedToggle (s : State) : Host.Outcome State Fault Refusal :=
  .next (succeedEncode (mkFrame s.cfg.jobCode.ledToggle (commandLen .ledToggle) []) .short s)

end Sys2Proof.Machine
end

