-- ==== Sys2Proof/Machine/FrameDecode.lean ====
section
/-! DEFINITION. FRM.DEC (spec/42_decode.md R138) and the frames of the opcode table's header rows, each
given to the decoder (log entry 4, DESIGN CHOICE). -/

namespace Sys2Proof.Machine

/-- FRM.DEC (R130 to R139). -/
def execFrmDec (frame : Frame) (s : State) : Host.Outcome State Fault Refusal :=
  .next (decodeInto frame s)

/-- HDR.INIT_PWM: FRM.DEC of a frame with job_id `JOB_CODE(INIT_PWM)`. -/
def execHdrInitPwm (len : BitVec 5) (body : Payload) (s : State) :
    Host.Outcome State Fault Refusal :=
  .next (decodeInto (headerFrame s.cfg.jobCode.initPwm len body) s)

/-- HDR.SET_DUTY: FRM.DEC of a frame with job_id `JOB_CODE(SET_DUTY)`. -/
def execHdrSetDuty (len : BitVec 5) (body : Payload) (s : State) :
    Host.Outcome State Fault Refusal :=
  .next (decodeInto (headerFrame s.cfg.jobCode.setDuty len body) s)

/-- HDR.RESTART: FRM.DEC of a frame with job_id `JOB_CODE(RESTART)`. -/
def execHdrRestart (len : BitVec 5) (body : Payload) (s : State) :
    Host.Outcome State Fault Refusal :=
  .next (decodeInto (headerFrame s.cfg.jobCode.restart len body) s)

/-- HDR.LED_TOGGLE: FRM.DEC of a frame with job_id `JOB_CODE(LED_TOGGLE)`. -/
def execHdrLedToggle (len : BitVec 5) (body : Payload) (s : State) :
    Host.Outcome State Fault Refusal :=
  .next (decodeInto (headerFrame s.cfg.jobCode.ledToggle len body) s)

/-- HDR.GET_STATE: FRM.DEC of a frame with job_id `JOB_CODE(GET_STATE)`. -/
def execHdrGetState (len : BitVec 5) (body : Payload) (s : State) :
    Host.Outcome State Fault Refusal :=
  .next (decodeInto (headerFrame s.cfg.jobCode.getState len body) s)

/-- HDR.GET_FREQ: FRM.DEC of a frame with job_id `JOB_CODE(GET_FREQ)`. -/
def execHdrGetFreq (len : BitVec 5) (body : Payload) (s : State) :
    Host.Outcome State Fault Refusal :=
  .next (decodeInto (headerFrame s.cfg.jobCode.getFreq len body) s)

/-- HDR.GET_DUTY: FRM.DEC of a frame with job_id `JOB_CODE(GET_DUTY)`. -/
def execHdrGetDuty (len : BitVec 5) (body : Payload) (s : State) :
    Host.Outcome State Fault Refusal :=
  .next (decodeInto (headerFrame s.cfg.jobCode.getDuty len body) s)

/-- HDR.UNASSIGNED_0: FRM.DEC of a frame whose job_id selects no job. -/
def execHdrUnassigned0 (len : BitVec 5) (body : Payload) (s : State) :
    Host.Outcome State Fault Refusal :=
  .next (decodeInto (headerFrame (unassignedCode s.cfg.jobCode) len body) s)

end Sys2Proof.Machine
end

