-- ==== Sys2Proof/Machine/FrameEncode.lean ====
section
/-! DEFINITION. FRM.ENC, the raw frame encoder (spec/40_frame_encode.md R100 to R105). -/

namespace Sys2Proof.Machine

/-- FRM.ENC (R100): a payload length above 31 fails with ERR_LEN (R102); any other builds the frame of
`job`, whatever it is (R103), and emits it. -/
def execFrmEnc (job : BitVec 3) (len : BitVec 6) (payload : Payload) (s : State) :
    Host.Outcome State Fault Refusal :=
  .next
    (if 31 < len.toNat then failEncode .errLen s
     else
      succeedEncode (mkFrame job (len.extractLsb' 0 5) payload.toList)
        (settleClass s.cfg.jobCode job) s)

end Sys2Proof.Machine
end

