-- ==== Sys2Proof/Machine/Reserved.lean ====
section
/-! DEFINITION. The reserved operation codes 6 and 7 (spec/30_encoding.md R80, spec/60_exceptions.md
R158). -/

namespace Sys2Proof.Machine

/-- RESERVED.6 (R158). -/
def execReserved6 (s : State) : Host.Outcome State Fault Refusal := .next (reservedOp s)

/-- RESERVED.7 (R158). -/
def execReserved7 (s : State) : Host.Outcome State Fault Refusal := .next (reservedOp s)

end Sys2Proof.Machine
end

