-- ==== Sys2Proof/Machine/Dispatch.lean ====
section
/-! DEFINITION. One arm per instruction. -/

namespace Sys2Proof.Machine

/-- What an instruction does to the block: one call of its meaning. -/
def exec (i : Instr) (s : State) : Host.Outcome State Fault Refusal :=
  match i with
  | .frmEnc job len payload => Sys2Proof.Machine.execFrmEnc job len payload s
  | .cmdInitPwm freq duty pin channel timer => Sys2Proof.Machine.execCmdInitPwm freq duty pin channel timer s
  | .cmdSetDuty duty pin channel => Sys2Proof.Machine.execCmdSetDuty duty pin channel s
  | .cmdRestart => Sys2Proof.Machine.execCmdRestart s
  | .cmdLedToggle => Sys2Proof.Machine.execCmdLedToggle s
  | .frmDec frame => Sys2Proof.Machine.execFrmDec frame s
  | .reserved6 => Sys2Proof.Machine.execReserved6 s
  | .reserved7 => Sys2Proof.Machine.execReserved7 s
  | .hdrInitPwm len body => Sys2Proof.Machine.execHdrInitPwm len body s
  | .hdrSetDuty len body => Sys2Proof.Machine.execHdrSetDuty len body s
  | .hdrRestart len body => Sys2Proof.Machine.execHdrRestart len body s
  | .hdrLedToggle len body => Sys2Proof.Machine.execHdrLedToggle len body s
  | .hdrGetState len body => Sys2Proof.Machine.execHdrGetState len body s
  | .hdrGetFreq len body => Sys2Proof.Machine.execHdrGetFreq len body s
  | .hdrGetDuty len body => Sys2Proof.Machine.execHdrGetDuty len body s
  | .hdrUnassigned0 len body => Sys2Proof.Machine.execHdrUnassigned0 len body s

end Sys2Proof.Machine
end

