-- ==== Sys2Proof/Machine/Port.lean ====
section
/-! DEFINITION. The request port (spec/20_memory.md R58, spec/70_reset_and_hazards.md R170, R180, R181):
taking the host's next action, performing it, and presenting a table word. -/

namespace Sys2Proof.Machine

/-- Perform one action of the host on the block, the action already taken from the port: a reset
(R170), or the operation a presented item is. -/
def perform (a : HostAction) (s : State) : Host.Outcome State Fault Refusal :=
  match a with
  | .reset => .next (resetRegisters s)
  | .present item => exec (decode s.cfg.jobCode item) s

/-- One operation, whole, in the order the host presents them (R58). With nothing presented the block
waits, and no register changes (R170, R180; log entry 3). -/
def stepPort (s : State) : Host.Outcome State Fault Refusal :=
  match s.port with
  | [] => .next s
  | a :: rest => perform a { s with port := rest }

/-- Present the item of a table word next, before anything still waiting; a word that is no item
changes nothing. -/
def presentTableWord (s : State) (nbits w : Nat) : State :=
  match itemOfTableWord nbits w with
  | .ok item => { s with port := .present item :: s.port }
  | .error _ => s

end Sys2Proof.Machine
end

