-- ==== Sys2Proof/Machine/Step.lean ====
section
/-! DEFINITION. One step of the machine: one host action, taken from the port and performed whole
(spec/20_memory.md R55, R58). -/

namespace Sys2Proof.Machine

/-- One step (R58, R151). -/
def step (s : State) : Host.Outcome State Fault Refusal := stepPort s

/-- The state with a table word presented next (log entry 3). -/
def State.withFetchWord (s : State) (nbits w : Nat) : State := presentTableWord s nbits w

end Sys2Proof.Machine
end

