-- ==== Sys2Proof/Machine/Assembler.lean ====
section
/-! DEFINITION. The assembler of requests: operands to port fields (spec/30_encoding.md R83, R76), the
pseudo-instructions (R84), and the text of a line (R83). No operation of the block uses it; it is how
the spec's programs are spelled. Its corners are log entry 13. -/

namespace Sys2Proof.Machine

/-- A number in an unsigned field of `w` bits; "a value wider than its field cannot be presented"
(R76). -/
def unsignedField (w n : Nat) : Except AsmError (BitVec w) :=
  if n < 2 ^ w then .ok (BitVec.ofNat w n) else .error .valueTooWide

/-- A duty in its 32-bit two's-complement field (R76, R83). -/
def dutyOperand (d : Int) : Except AsmError (BitVec 32) :=
  if -(2 ^ 31) ≤ d ∧ d < 2 ^ 31 then .ok (BitVec.ofInt 32 d) else .error .valueTooWide

/-- A job "may be written as its name (meaning `JOB_CODE(name)`) or as a number 0 to 7" (R83). -/
def jobOperand (jc : JobCodes) : JobRef → Except AsmError (BitVec 3)
  | .name j => .ok (jc.code j)
  | .code n => unsignedField 3 n

/-- At most `n` listed bytes, packed with byte i at bits [8i+7:8i]; "bytes not listed are 0x00" (R83,
R76). -/
def bytesOperand (n : Nat) (bytes : List Nat) : Except AsmError (BitVec (8 * n)) :=
  if n < bytes.length then .error .tooManyBytes
  else if bytes.all (· < 256) then
    .ok (packBytes (8 * n) (bytes.map (BitVec.ofNat 8)))
  else .error .valueTooWide

/-- The request of a line; "fields of the request that a line does not give are 0" (R83). -/
def assemble (jc : JobCodes) : AsmLine → Except AsmError Request
  | .frmEnc job len bytes => do
    let j ← jobOperand jc job
    let l ← unsignedField 6 len
    let p ← bytesOperand 31 bytes
    .ok { op := 0, job := j, len := l, payload := p }
  | .cmdInitPwm freq duty pin channel timer => do
    let f ← unsignedField 32 freq
    let d ← dutyOperand duty
    let p ← unsignedField 8 pin
    let c ← unsignedField 8 channel
    let t ← unsignedField 8 timer
    .ok { op := 1, freq := f, duty := d, pin := p, channel := c, timer := t }
  | .cmdSetDuty duty pin channel => do
    let d ← dutyOperand duty
    let p ← unsignedField 8 pin
    let c ← unsignedField 8 channel
    .ok { op := 2, duty := d, pin := p, channel := c }
  | .cmdRestart => .ok { op := 3 }
  | .cmdLedToggle => .ok { op := 4 }
  | .frmDec bytes => do
    let f ← bytesOperand 32 bytes
    .ok { op := 5, frame := f }

/-- The expansion of a pseudo-instruction (R84). -/
def expandPseudo : PseudoLine → AsmLine
  | .frmSend job bytes => .frmEnc job bytes.length bytes
  | .cmdGetState b0 b1 => .frmEnc (.name .getState) 2 [b0, b1]
  | .cmdGetFreq b0 b1 => .frmEnc (.name .getFreq) 2 [b0, b1]
  | .cmdGetDuty b0 b1 => .frmEnc (.name .getDuty) 2 [b0, b1]
  | .cmdStop pin channel => .cmdSetDuty 0 pin channel

/-- The request line a source line stands for (R83, R84). -/
def expandSource : SourceLine → AsmLine
  | .line l => l
  | .pseudo p => expandPseudo p

/-! ### The text of a line -/

/-- A finished word, if any characters were read (the reader keeps them last first). -/
def flushWord : List Char → List Token
  | [] => []
  | acc => [.word acc.reverse]

/-- The tokens of a line; "`;` starts a comment" (R83). -/
def lexLine : List Char → List Char → List Token
  | [], acc => flushWord acc
  | c :: cs, acc =>
    if c = ';' then flushWord acc
    else if c = ' ' ∨ c = '\t' then flushWord acc ++ lexLine cs []
    else if c = ',' then flushWord acc ++ .comma :: lexLine cs []
    else if c = '[' then flushWord acc ++ .openList :: lexLine cs []
    else if c = ']' then flushWord acc ++ .closeList :: lexLine cs []
    else lexLine cs (c :: acc)

/-- The value of a digit, if it is one below the base. -/
def digitValue (base : Nat) (c : Char) : Option Nat :=
  let v :=
    if '0' ≤ c ∧ c ≤ '9' then c.toNat - '0'.toNat
    else if 'a' ≤ c ∧ c ≤ 'f' then c.toNat - 'a'.toNat + 10
    else if 'A' ≤ c ∧ c ≤ 'F' then c.toNat - 'A'.toNat + 10
    else base
  if v < base then some v else none

/-- Digits in a base, at least one. -/
def digitsValue (base : Nat) (cs : List Char) : Option Nat :=
  if cs.isEmpty then none
  else cs.foldlM (fun acc c => (digitValue base c).map fun v => acc * base + v) 0

/-- "Numbers in decimal or `0x` hex" (R83). -/
def numberText : List Char → Option Nat
  | '0' :: 'x' :: cs => digitsValue 16 cs
  | cs => digitsValue 10 cs

/-- A number that "may be negative" (R83). -/
def dutyText : List Char → Option Int
  | '-' :: cs => (numberText cs).map fun n => -(n : Int)
  | cs => (numberText cs).map fun n => (n : Int)

/-- A job's name or number (R83). -/
def jobText (w : List Char) : Option JobRef :=
  if w = "INIT_PWM".toList then some (.name .initPwm)
  else if w = "SET_DUTY".toList then some (.name .setDuty)
  else if w = "RESTART".toList then some (.name .restart)
  else if w = "LED_TOGGLE".toList then some (.name .ledToggle)
  else if w = "GET_STATE".toList then some (.name .getState)
  else if w = "GET_FREQ".toList then some (.name .getFreq)
  else if w = "GET_DUTY".toList then some (.name .getDuty)
  else (numberText w).map .code

/-- One token of a line's operands: operands separated by commas, a list in brackets (R83). -/
def readOperand (st : List TextOperand × OperandMode) (t : Token) :
    Option (List TextOperand × OperandMode) :=
  match st.2, t with
  | .start, .word w => some (st.1 ++ [.word w], .afterOperand)
  | .afterComma, .word w => some (st.1 ++ [.word w], .afterOperand)
  | .start, .openList => some (st.1, .listOpened)
  | .afterComma, .openList => some (st.1, .listOpened)
  | .afterOperand, .comma => some (st.1, .afterComma)
  | .listOpened, .word w => (numberText w).map fun n => (st.1, .afterNumber [n])
  | .listOpened, .closeList => some (st.1 ++ [.list []], .afterOperand)
  | .afterNumber acc, .comma => some (st.1, .afterListComma acc)
  | .afterNumber acc, .closeList => some (st.1 ++ [.list acc], .afterOperand)
  | .afterListComma acc, .word w => (numberText w).map fun n => (st.1, .afterNumber (acc ++ [n]))
  | _, _ => none

/-- A line's operands. -/
def readOperands (ts : List Token) : Option (List TextOperand) :=
  match ts.foldlM readOperand ([], .start) with
  | some (ops, .start) => some ops
  | some (ops, .afterOperand) => some ops
  | _ => none

/-- A line whose operands have been read, or none where their form is not the mnemonic's (R83, R84). -/
def shapeLine (m : List Char) (ops : List TextOperand) : Except AsmError SourceLine :=
  let orBad (r : Option SourceLine) : Except AsmError SourceLine :=
    match r with
    | some l => .ok l
    | none => .error .badOperands
  if m = "frm.enc".toList then
    orBad (match ops with
      | [.word j, .word l, .list bs] => do
        some (.line (.frmEnc (← jobText j) (← numberText l) bs))
      | _ => none)
  else if m = "cmd.init_pwm".toList then
    orBad (match ops with
      | [.word f, .word d, .word p, .word c, .word t] => do
        some (.line (.cmdInitPwm (← numberText f) (← dutyText d) (← numberText p) (← numberText c)
          (← numberText t)))
      | _ => none)
  else if m = "cmd.set_duty".toList then
    orBad (match ops with
      | [.word d, .word p, .word c] => do
        some (.line (.cmdSetDuty (← dutyText d) (← numberText p) (← numberText c)))
      | _ => none)
  else if m = "cmd.restart".toList then
    orBad (match ops with
      | [] => some (.line .cmdRestart)
      | _ => none)
  else if m = "cmd.led_toggle".toList then
    orBad (match ops with
      | [] => some (.line .cmdLedToggle)
      | _ => none)
  else if m = "frm.dec".toList then
    orBad (match ops with
      | [.list bs] => some (.line (.frmDec bs))
      | _ => none)
  else if m = "frm.send".toList then
    orBad (match ops with
      | [.word j, .list bs] => do some (.pseudo (.frmSend (← jobText j) bs))
      | _ => none)
  else if m = "cmd.get_state".toList then
    orBad (match ops with
      | [.list [b0, b1]] => some (.pseudo (.cmdGetState b0 b1))
      | _ => none)
  else if m = "cmd.get_freq".toList then
    orBad (match ops with
      | [.list [b0, b1]] => some (.pseudo (.cmdGetFreq b0 b1))
      | _ => none)
  else if m = "cmd.get_duty".toList then
    orBad (match ops with
      | [.list [b0, b1]] => some (.pseudo (.cmdGetDuty b0 b1))
      | _ => none)
  else if m = "cmd.stop".toList then
    orBad (match ops with
      | [.word p, .word c] => do some (.pseudo (.cmdStop (← numberText p) (← numberText c)))
      | _ => none)
  else .error .unknownMnemonic

/-- The source line of a line of text, or nothing for a blank or a comment; "one request per line"
(R83). -/
def parseLine (text : List Char) : Except AsmError (Option SourceLine) :=
  match lexLine text [] with
  | [] => .ok none
  | .word m :: ts =>
    match readOperands ts with
    | some ops => (shapeLine m ops).map some
    | none => .error .badOperands
  | _ => .error .badOperands

/-- The request a line of text presents (R83, R84). -/
def assembleText (jc : JobCodes) (text : String) : Except AsmError (Option Request) := do
  match ← parseLine text.toList with
  | none => .ok none
  | some l => (assemble jc (expandSource l)).map some

end Sys2Proof.Machine
end

