-- ==== Sys2Proof/Safety.lean ====
section
/-! DEFINITION. What a safe run is, in the terms the claims use: the invariant that ties the registers
to each other (spec/10_state.md R28 to R36), the kinds of operation, and the duties the host owes the
bus (spec/70_reset_and_hazards.md R172, R173, R175), which no operation of the block checks. -/

namespace Sys2Proof.Machine

/-- The encode operations: FRM.ENC and the four commands (R29). -/
def isEncode : Instr → Bool
  | .frmEnc _ _ _ => true
  | .cmdInitPwm _ _ _ _ _ => true
  | .cmdSetDuty _ _ _ => true
  | .cmdRestart => true
  | .cmdLedToggle => true
  | .frmDec _ => false
  | .reserved6 => false
  | .reserved7 => false
  | .hdrInitPwm _ _ => false
  | .hdrSetDuty _ _ => false
  | .hdrRestart _ _ => false
  | .hdrLedToggle _ _ => false
  | .hdrGetState _ _ => false
  | .hdrGetFreq _ _ => false
  | .hdrGetDuty _ _ => false
  | .hdrUnassigned0 _ _ => false

/-- The reserved operations (R158). -/
def isReserved : Instr → Bool
  | .reserved6 => true
  | .reserved7 => true
  | .frmEnc _ _ _ => false
  | .cmdInitPwm _ _ _ _ _ => false
  | .cmdSetDuty _ _ _ => false
  | .cmdRestart => false
  | .cmdLedToggle => false
  | .frmDec _ => false
  | .hdrInitPwm _ _ => false
  | .hdrSetDuty _ _ => false
  | .hdrRestart _ _ => false
  | .hdrLedToggle _ _ => false
  | .hdrGetState _ _ => false
  | .hdrGetFreq _ _ => false
  | .hdrGetDuty _ _ => false
  | .hdrUnassigned0 _ _ => false

/-- The encoder's registers agree with each other and with the log. -/
structure EncoderInv (s : State) : Prop where
  /-- "When 1, TX_FRAME holds the frame of the most recent encode operation, and that frame is the
  last entry of TX_LOG" (R30). -/
  validIsLast : s.txValid = true → s.txLog.getLast? = some s.txFrame
  /-- TX_FRAME keeps the frame last emitted, with its settle class, until the next one (R29, R32). -/
  heldIsLast : ∀ F, s.txLog.getLast? = some F →
    s.txFrame = F ∧ s.txSettle = settleClass s.cfg.jobCode (headerJob F)
  /-- Nothing emitted yet: the reset values are still there (R39). -/
  unusedIsReset : s.txLog = [] → s.txFrame = Frame.zero ∧ s.txSettle = .short
  /-- "In every frame the encoder builds, every padding byte is 0x00" (R28). -/
  paddedLog : ∀ F ∈ s.txLog, paddingZero F

/-- The decoder's registers agree with each other. -/
structure DecoderInv (s : State) : Prop where
  /-- DEC_PAYLOAD is 0x00 from DEC_LEN on (R34, R57). -/
  payloadTail : ∀ k : Fin 31, s.decLen.toNat ≤ k.val → s.decPayload[k] = 0#8
  /-- DEC_FREQ and DEC_TIMER are fields of INIT_PWM alone (R35, R137). -/
  initPwmFields : (s.decFreq ≠ 0#32 ∨ s.decTimer ≠ 0#8) →
    s.decJob = s.cfg.jobCode.initPwm ∧ s.decLen = 9#5
  /-- DEC_DUTY, DEC_PIN and DEC_CHANNEL are fields of INIT_PWM and SET_DUTY alone (R35, R137). -/
  dutyFields : (s.decDuty ≠ 0#16 ∨ s.decPin ≠ 0#8 ∨ s.decChannel ≠ 0#8) →
    (s.decJob = s.cfg.jobCode.initPwm ∧ s.decLen = 9#5) ∨
      (s.decJob = s.cfg.jobCode.setDuty ∧ s.decLen = 4#5)
  /-- A decoded SET_DUTY's duty is at most DUTY_LIMIT (R136). -/
  dutyBound : s.decJob = s.cfg.jobCode.setDuty → s.decDuty.toNat ≤ s.cfg.dutyLimit.val

/-- The invariant every step keeps. -/
structure State.Inv (s : State) : Prop where
  encoder : EncoderInv s
  decoder : DecoderInv s

/-- "Must not transmit TX_FRAME when it is 0" (R175): when the host may send `TX_FRAME`. -/
def mayTransmit (s : State) : Prop := s.txValid = true

/-! ### The host's duties on the bus -/

/-- One transmission by the host: the frame, when it took the bus, when the frame was sent whole, and
when it released the bus. -/
structure Transmission where
  frame : Frame
  acquired : Nat
  sent : Nat
  released : Nat
  deriving DecidableEq, Repr

/-- The pause a settle class asks for (R173). -/
def requiredPause : Settle → Nat
  | .short => Config.settleShort
  | .long => Config.settleLong

/-- The host holds the bus while it sends, and keeps it for the settle delay of the frame's job
(R172, R173). -/
def Transmission.keepsSettle (jc : JobCodes) (t : Transmission) : Prop :=
  t.acquired ≤ t.sent ∧ t.sent + requiredPause (settleClass jc (headerJob t.frame)) ≤ t.released

/-- One owner of the bus at a time (R172). -/
def exclusiveBus (ts : List Transmission) : Prop :=
  ts.Pairwise fun a b => a.released ≤ b.acquired

/-- Each emitted frame is sent whole and in `TX_LOG` order (R172). -/
def sentInLogOrder (log : List Frame) (ts : List Transmission) : Prop :=
  ts.map Transmission.frame <+: log

/-- A host that keeps R172 and R173 for what the block has emitted. -/
structure HostKeepsDuties (s : State) (ts : List Transmission) : Prop where
  inOrder : sentInLogOrder s.txLog ts
  exclusive : exclusiveBus ts
  settled : ∀ t ∈ ts, t.keepsSettle s.cfg.jobCode

end Sys2Proof.Machine
end

