-- ==== Sys2Proof/Certificates/Slice0/Obligations.lean ====
section
/-! DEFINITION. The statements for the provers. They say in bytes and bits what spec/ says of the
block; the helpers below spell a byte order and a frame out without the model's own operations. -/

namespace Sys2Proof.Certificates

open Sys2Proof.Machine

/-- The two bytes of a 16-bit field in a byte order (R11). -/
def bytes16 : Endian → BitVec 16 → List Byte
  | .little, v => [v.extractLsb' 0 8, v.extractLsb' 8 8]
  | .big, v => [v.extractLsb' 8 8, v.extractLsb' 0 8]

/-- The four bytes of a 32-bit field in a byte order (R11). -/
def bytes32 : Endian → BitVec 32 → List Byte
  | .little, v => [v.extractLsb' 0 8, v.extractLsb' 8 8, v.extractLsb' 16 8, v.extractLsb' 24 8]
  | .big, v => [v.extractLsb' 24 8, v.extractLsb' 16 8, v.extractLsb' 8 8, v.extractLsb' 0 8]

/-- The 16-bit field two bytes hold in a byte order (R11). -/
def word16 : Endian → Byte → Byte → BitVec 16
  | .little, b0, b1 => b1 ++ b0
  | .big, b0, b1 => b0 ++ b1

/-- The 32-bit field four bytes hold in a byte order (R11). -/
def word32 : Endian → Byte → Byte → Byte → Byte → BitVec 32
  | .little, b0, b1, b2, b3 => b3 ++ b2 ++ b1 ++ b0
  | .big, b0, b1, b2, b3 => b0 ++ b1 ++ b2 ++ b3

/-- A header, a payload, and zeros up to 32 bytes (R28). -/
def framed (header : Byte) (payload : List Byte) : List Byte :=
  header :: payload ++ List.replicate (31 - payload.length) 0#8

/-- `s` after a successful encode operation emitted `F` (R29, R30, R32, R36). -/
def afterEmit (s : State) (F : Frame) (c : Settle) : State :=
  { s with
    txFrame := F, txSettle := c, txValid := true, txLog := s.txLog ++ [F], status := .ok }

/-- `s` after a failed encode operation (R29, R30, R150). -/
def afterRefusal (s : State) (st : Status) : State := { s with txValid := false, status := st }

/-- `s` after a decode of a frame with job_id `j`, payload_len `L` and payload register `P` that ended
with status `st` and the given command fields. -/
def afterDecode (s : State) (j : BitVec 3) (L : BitVec 5) (P : Payload) (st : Status)
    (freq : BitVec 32) (duty : BitVec 16) (pin channel timer : Byte) : State :=
  { s with
    decJob := j, decLen := L, decPayload := P, status := st, decFreq := freq, decDuty := duty,
    decPin := pin, decChannel := channel, decTimer := timer }

/-- `P` holds the first `n` bytes of `body`, then zeros (R34). -/
def keepsFirst (n : Nat) (body P : Payload) : Prop :=
  ∀ k : Fin 31, P[k] = if k.val < n then body[k] else 0#8

/-- A frame's job_id and payload_len are a command's code and its `LEN` (R72, R73). -/
def lengthFits (jc : JobCodes) (F : Frame) : Prop :=
  (F[0].extractLsb' 5 3 = jc.initPwm ∧ F[0].extractLsb' 0 5 = 9#5) ∨
  (F[0].extractLsb' 5 3 = jc.setDuty ∧ F[0].extractLsb' 0 5 = 4#5) ∨
  (F[0].extractLsb' 5 3 = jc.restart ∧ F[0].extractLsb' 0 5 = 0#5) ∨
  (F[0].extractLsb' 5 3 = jc.ledToggle ∧ F[0].extractLsb' 0 5 = 0#5)

/-- The number of payload bytes of the frame an encode operation builds (R73, R100). -/
def payloadLength : Instr → Nat
  | .frmEnc _ len _ => len.toNat
  | .cmdInitPwm _ _ _ _ _ => 9
  | .cmdSetDuty _ _ _ => 4
  | _ => 0

/-- The bytes of a 16-bit value swapped. -/
def swap16 (v : BitVec 16) : BitVec 16 := v.extractLsb' 0 8 ++ v.extractLsb' 8 8

/-- The bytes of a 32-bit value reversed. -/
def swap32 (v : BitVec 32) : BitVec 32 :=
  v.extractLsb' 0 8 ++ v.extractLsb' 8 8 ++ v.extractLsb' 16 8 ++ v.extractLsb' 24 8

/-- The transmit registers and the log are as before (R29, R30, R32, R36). -/
def sameTransmit (s t : State) : Prop :=
  t.txFrame = s.txFrame ∧ t.txValid = s.txValid ∧ t.txSettle = s.txSettle ∧ t.txLog = s.txLog

/-- The decoder registers are the same (R33 to R35). -/
def sameDecoder (s t : State) : Prop :=
  t.decJob = s.decJob ∧ t.decLen = s.decLen ∧ t.decPayload = s.decPayload ∧
  t.decFreq = s.decFreq ∧ t.decDuty = s.decDuty ∧ t.decPin = s.decPin ∧
  t.decChannel = s.decChannel ∧ t.decTimer = s.decTimer

/-- The byte order, the parameters and what the host has yet to present are the same. -/
def sameInputs (s t : State) : Prop :=
  t.cfgEndian = s.cfgEndian ∧ t.cfg = s.cfg ∧ t.port = s.port

end Sys2Proof.Certificates

open Sys2Proof Sys2Proof.Machine Sys2Proof.Certificates

/-! ### Words and instructions -/

/-- Decoding the word of a well-formed instruction gives it back, every operand at every value, under
every `JOB_CODE` (R71, R76, R77). The header rows' words are the model's reading (log entries 4 and 7). -/
def Obligations.DecodeEncodeRoundTrip : Prop :=
  ∀ (jc : JobCodes) (i : Instr), i.wellFormed = true → decode jc (encode jc i) = i

/-- Everything the decoder answers is well formed. A request's operation is so by its type; what is said
is about bare frames and is the model's reading of the header rows: a bare frame is an item (log entry
4), and one with a command's job_id and another payload_len is FRM.DEC of it and no header row (log
entry 6), under every `JOB_CODE` (log entry 7). -/
def Obligations.DecodedInstructionIsWellFormed : Prop :=
  ∀ (jc : JobCodes) (item : PortItem), (decode jc item).wellFormed = true

/-- Under the default `JOB_CODE`, of the sixteen rows of the opcode table exactly an instruction's own
row matches its word. Which row a bare frame is an instruction of is the model's reading (log entry 4). -/
def Obligations.WordMatchesExactlyItsRow : Prop :=
  ∀ i : Instr, i.wellFormed = true → ∀ row ∈ tableRows,
    (rowMatches row (encode .listed i) = true ↔ row.mnemonic = rowMnemonic i)

/-- Requests of the spec's programs P1, P2 and P5 decode to the operations they stand for, and the
frames of R73's header bytes 0x29, 0x44, 0x60 and 0x80 to their header rows (log entry 4). -/
def Obligations.SampleWordsDecode : Prop :=
  decode .listed (.request { op := 0b001, freq := 0x000003E8, pin := 0x12 }) =
      .cmdInitPwm 1000 0 18 0 0 ∧
  decode .listed (.request { op := 0b010, duty := 0x00000800, pin := 0x12 }) =
      .cmdSetDuty 2048 18 0 ∧
  decode .listed (.request { op := 0b011 }) = .cmdRestart ∧
  decode .listed (.request { op := 0b100 }) = .cmdLedToggle ∧
  decode .listed (.request { op := 0b110 }) = .reserved6 ∧
  decodeTableWord 8 0x29 = some (.hdrInitPwm 9 (Vector.replicate 31 0#8)) ∧
  decodeTableWord 8 0x44 = some (.hdrSetDuty 4 (Vector.replicate 31 0#8)) ∧
  decodeTableWord 8 0x60 = some (.hdrRestart 0 (Vector.replicate 31 0#8)) ∧
  decodeTableWord 8 0x80 = some (.hdrLedToggle 0 (Vector.replicate 31 0#8))

/-- Each `op` code selects its operation, which takes the request fields R76 lists for it and no other;
byte i of a packed operand stands at bits [8i+7:8i] (R76, R77, R80). -/
def Obligations.OpCodesSelectTheirOperations : Prop :=
  ∀ (jc : JobCodes) (r : Request), ∃ (P : Payload) (F : Frame),
    (∀ k : Fin 31, P[k] = r.payload.extractLsb' (8 * k.val) 8) ∧
    (∀ k : Fin 32, F[k] = r.frame.extractLsb' (8 * k.val) 8) ∧
    (r.op = 0b000#3 → decode jc (.request r) = .frmEnc r.job r.len P) ∧
    (r.op = 0b001#3 →
      decode jc (.request r) = .cmdInitPwm r.freq r.duty r.pin r.channel r.timer) ∧
    (r.op = 0b010#3 → decode jc (.request r) = .cmdSetDuty r.duty r.pin r.channel) ∧
    (r.op = 0b011#3 → decode jc (.request r) = .cmdRestart) ∧
    (r.op = 0b100#3 → decode jc (.request r) = .cmdLedToggle) ∧
    (r.op = 0b101#3 → decode jc (.request r) = .frmDec F) ∧
    (r.op = 0b110#3 → decode jc (.request r) = .reserved6) ∧
    (r.op = 0b111#3 → decode jc (.request r) = .reserved7)

/-- Seven distinct codes leave exactly one that selects no job (R8, R72; the inference is log entry 7). -/
def Obligations.UnassignedCodeIsTheOneLeft : Prop :=
  ∀ (jc : JobCodes) (c : BitVec 3), (∀ j : Job, jc.code j ≠ c) ↔ c = unassignedCode jc

/-- A string of bytes is decoded when it is exactly 32 bytes and is rejected by name when it is not
(R130); what it decodes to is a bare frame, the model's reading (log entry 4). -/
def Obligations.OnlyWholeFramesDecode : Prop :=
  ∀ (jc : JobCodes) (bs : List Byte),
    (bs.length ≠ 32 → decodeBytes jc bs = .error .notThirtyTwoBytes) ∧
    (bs.length = 32 → ∃ F : Frame, F.toList = bs ∧
      decodeBytes jc bs = .ok (decode jc (.frame F)))

/-- Presenting a bare frame does what FRM.DEC of that frame does, whatever row its header matches, and
also when it matches none (the model's reading: log entries 4 and 6). -/
def Obligations.BareFrameIsFrmDecOfIt : Prop :=
  ∀ (s : State) (F : Frame), exec (decode s.cfg.jobCode (.frame F)) s = exec (.frmDec F) s

/-! ### Byte order -/

/-- The two byte orders, for a field of n bytes: the bytes of a value and the value of bytes (R11). -/
def Obligations.ByteOrdersAreAsDefined : Prop :=
  ∀ (n : Nat) (v : BitVec (8 * n)) (bs : List Byte) (k : Fin n),
    (bytesE .little n v)[k.val]? = some (v.extractLsb' (8 * k.val) 8) ∧
    (bytesE .big n v)[k.val]? = some (v.extractLsb' (8 * (n - 1 - k.val)) 8) ∧
    (bytesE .little n v).length = n ∧ (bytesE .big n v).length = n ∧
    valE .little bs = ((List.range bs.length).map fun i => (bs.getD i 0).toNat * 256 ^ i).sum ∧
    valE .big bs =
      ((List.range bs.length).map fun i => (bs.getD i 0).toNat * 256 ^ (bs.length - 1 - i)).sum

/-- Reading a field back in the order it was written gives its value (R11, R50). -/
def Obligations.FieldReadsBackInItsByteOrder : Prop :=
  ∀ (e : Endian) (n : Nat) (v : BitVec (8 * n)), valE e (bytesE e n v) = v.toNat

/-! ### The port, reset and the run -/

/-- A step performs the operation the presented item decodes to, the item taken from the port (R58;
holding the presented items in the state is log entry 3). -/
def Obligations.StepRunsDecodedInstruction : Prop :=
  ∀ (s : State) (item : PortItem) (rest : List HostAction),
    s.port = .present item :: rest →
    step s = exec (decode s.cfg.jobCode item) { s with port := rest }

/-- With nothing presented the block waits (R170, R180); that a step then changes nothing is the
model's choice, log entry 3. -/
def Obligations.StepWithNothingPresentedWaits : Prop :=
  ∀ s : State, s.port = [] → step s = .next s

/-- Reset asserted between operations puts every register at its value of R39 and changes neither
`CFG_ENDIAN` nor a parameter (R170, R171). Reset as an action in the port's list is the model's choice
(log entries 3 and 12). -/
def Obligations.ResetRestoresEveryRegister : Prop :=
  ∀ (s : State) (rest : List HostAction), s.port = .reset :: rest →
    step s = .next
      { cfgEndian := s.cfgEndian, txFrame := Vector.replicate 32 0#8, txValid := false,
        txSettle := .short, status := .none, decJob := 0#3, decLen := 0#5,
        decPayload := Vector.replicate 31 0#8, decFreq := 0#32, decDuty := 0#16, decPin := 0#8,
        decChannel := 0#8, decTimer := 0#8, txLog := [], cfg := s.cfg, port := rest }

/-- After reset every register holds the value of R39 as the host reads it, `CFG_ENDIAN` being the
parameter `ENDIAN`; reset from any state leaves the same table and does not change `CFG_ENDIAN`. -/
def Obligations.ResetStateHoldsListedValues : Prop :=
  State.reset.observe =
    { cfgEndian := endianBit Config.endian, txFrame := 0, txValid := 0, txSettle := 0, status := 7,
      decJob := 0, decLen := 0, decPayload := 0, decFreq := 0, decDuty := 0, decPin := 0,
      decChannel := 0, decTimer := 0, txLog := [] } ∧
  ∀ s : State, (resetRegisters s).observe =
    { State.reset.observe with cfgEndian := s.observe.cfgEndian }

/-- Every request completes, with `STATUS` OK or one failure code; `STATUS` then reads neither 6 nor 7
(R151, R31). The port as a list is log entry 3. -/
def Obligations.EveryRequestCompletes : Prop :=
  ∀ (s : State) (item : PortItem) (rest : List HostAction),
    s.port = .present item :: rest →
    ∃ t : State, step s = .next t ∧ t.port = rest ∧
      t.status ∈ [Status.ok, .errRange, .errLen, .errJob, .errPad, .errOp] ∧
      (statusCode t.status).toNat < 6

/-- A run performs everything the host presents, one step each, and then waits (R58, R180; the port as
a list is log entry 3). -/
def Obligations.RunPerformsEverythingPresented : Prop :=
  ∀ s : State, ∃ t : State,
    Host.Core.run core s.port.length s = .next t ∧ t.port = [] ∧
    t.cfgEndian = s.cfgEndian ∧ t.cfg = s.cfg

/-! ### FRM.ENC -/

/-- FRM.ENC, both outcomes: with `len` at most 31 it emits the frame of any job, with the payload's
first `len` bytes and zeros after; above 31 it fails with ERR_LEN and emits nothing. Nothing else
changes (R100 to R103). -/
def Obligations.FrmEncOutcome : Prop :=
  ∀ (s : State) (job : BitVec 3) (len : BitVec 6) (payload : Payload),
    (len.toNat ≤ 31 → ∃ F : Frame,
      F[0] = job ++ len.extractLsb' 0 5 ∧
      (∀ k : Fin 31, F[k.val + 1] = if k.val < len.toNat then payload[k] else 0#8) ∧
      exec (.frmEnc job len payload) s =
        .next (afterEmit s F (if job = s.cfg.jobCode.initPwm then .long else .short))) ∧
    (31 < len.toNat →
      exec (.frmEnc job len payload) s = .next (afterRefusal s .errLen))

/-- Two FRM.ENC requests that differ only in payload bytes at index `len` and above do the same
(R104). -/
def Obligations.FrmEncIgnoresBytesPastLen : Prop :=
  ∀ (s : State) (job : BitVec 3) (len : BitVec 6) (p q : Payload),
    (∀ k : Fin 31, k.val < len.toNat → p[k] = q[k]) →
    exec (.frmEnc job len p) s = exec (.frmEnc job len q) s

/-! ### The commands -/

/-- CMD.INIT_PWM, both outcomes: a duty of 0 to 65535 emits header, freq, duty, pin, channel, timer
and zeros, settle class long; any other fails with ERR_RANGE and emits nothing. Nothing else changes
(R110 to R112). -/
def Obligations.InitPwmOutcome : Prop :=
  ∀ (s : State) (freq duty : BitVec 32) (pin channel timer : Byte),
    ((0 ≤ duty.toInt ∧ duty.toInt ≤ 65535) → ∃ F : Frame,
      F.toList = framed (s.cfg.jobCode.initPwm ++ 9#5)
        (bytes32 s.cfgEndian freq ++ bytes16 s.cfgEndian (duty.extractLsb' 0 16) ++
          [pin, channel, timer]) ∧
      exec (.cmdInitPwm freq duty pin channel timer) s = .next (afterEmit s F .long)) ∧
    ((duty.toInt < 0 ∨ 65535 < duty.toInt) →
      exec (.cmdInitPwm freq duty pin channel timer) s = .next (afterRefusal s .errRange))

/-- CMD.SET_DUTY, both outcomes: a duty of 0 to `DUTY_LIMIT` emits header, duty, pin, channel and
zeros, settle class short; any other fails with ERR_RANGE and emits nothing. Nothing else changes
(R113 to R115). -/
def Obligations.SetDutyOutcome : Prop :=
  ∀ (s : State) (duty : BitVec 32) (pin channel : Byte),
    ((0 ≤ duty.toInt ∧ duty.toInt ≤ (s.cfg.dutyLimit.val : Int)) → ∃ F : Frame,
      F.toList = framed (s.cfg.jobCode.setDuty ++ 4#5)
        (bytes16 s.cfgEndian (duty.extractLsb' 0 16) ++ [pin, channel]) ∧
      exec (.cmdSetDuty duty pin channel) s = .next (afterEmit s F .short)) ∧
    ((duty.toInt < 0 ∨ (s.cfg.dutyLimit.val : Int) < duty.toInt) →
      exec (.cmdSetDuty duty pin channel) s = .next (afterRefusal s .errRange))

/-- With `DUTY_LIMIT` = 4096: SET_DUTY of any v from 0 to 4096 succeeds and the frame's duty bytes are
v in the configured order; any other v in the operand's range fails and nothing is emitted (R116). -/
def Obligations.SetDutyBytesEqualItsValue : Prop :=
  ∀ (s : State) (v : Int) (pin channel : Byte), s.cfg.dutyLimit = 4096 →
    ((0 ≤ v ∧ v ≤ 4096) → ∃ t : State,
      exec (.cmdSetDuty (BitVec.ofInt 32 v) pin channel) s = .next t ∧ t.status = .ok ∧
      t.txLog = s.txLog ++ [t.txFrame] ∧
      (match s.cfgEndian with
        | .little => (t.txFrame[1].toNat + 256 * t.txFrame[2].toNat : Int) = v
        | .big => (256 * t.txFrame[1].toNat + t.txFrame[2].toNat : Int) = v)) ∧
    ((-(2 ^ 31) ≤ v ∧ v < 2 ^ 31 ∧ (v < 0 ∨ 4096 < v)) → ∃ t : State,
      exec (.cmdSetDuty (BitVec.ofInt 32 v) pin channel) s = .next t ∧ t.status = .errRange ∧
      t.txValid = false ∧ t.txLog = s.txLog)

/-- CMD.RESTART emits a header and 31 zero bytes, settle class short, and always succeeds (R117). -/
def Obligations.RestartOutcome : Prop :=
  ∀ s : State, ∃ F : Frame,
    F.toList = (s.cfg.jobCode.restart ++ 0#5) :: List.replicate 31 0#8 ∧
    exec .cmdRestart s = .next (afterEmit s F .short)

/-- CMD.LED_TOGGLE emits a header and 31 zero bytes, settle class short, and always succeeds (R119). -/
def Obligations.LedToggleOutcome : Prop :=
  ∀ s : State, ∃ F : Frame,
    F.toList = (s.cfg.jobCode.ledToggle ++ 0#5) :: List.replicate 31 0#8 ∧
    exec .cmdLedToggle s = .next (afterEmit s F .short)

/-! ### FRM.DEC -/

/-- FRM.DEC of every frame completes, writes the header fields and the payload whatever its status, and
leaves the transmit side, the byte order, the parameters and the port alone (R131, R132). -/
def Obligations.FrmDecWritesHeaderAndPayload : Prop :=
  ∀ (s : State) (F : Frame), ∃ t : State,
    exec (.frmDec F) s = .next t ∧
    t.decJob = F[0].extractLsb' 5 3 ∧ t.decLen = F[0].extractLsb' 0 5 ∧
    (∀ k : Fin 31, t.decPayload[k] =
      if k.val < (F[0].extractLsb' 0 5).toNat then F[k.val + 1] else 0#8) ∧
    sameTransmit s t ∧ sameInputs s t

/-- FRM.DEC reports the first failing check of job, length, padding and range, in that order, and OK
when none fails; an INIT_PWM duty is not range-checked (R133 to R136, R139). -/
def Obligations.FrmDecReportsFirstFailure : Prop :=
  ∀ (s : State) (F : Frame), ∃ t : State,
    exec (.frmDec F) s = .next t ∧
    (F[0].extractLsb' 5 3 ∉ [s.cfg.jobCode.initPwm, s.cfg.jobCode.setDuty, s.cfg.jobCode.restart,
        s.cfg.jobCode.ledToggle] → t.status = .errJob) ∧
    (F[0].extractLsb' 5 3 ∈ [s.cfg.jobCode.initPwm, s.cfg.jobCode.setDuty, s.cfg.jobCode.restart,
        s.cfg.jobCode.ledToggle] → ¬ lengthFits s.cfg.jobCode F → t.status = .errLen) ∧
    (lengthFits s.cfg.jobCode F →
      (∃ k : Fin 32, (F[0].extractLsb' 0 5).toNat < k.val ∧ F[k] ≠ 0#8) → t.status = .errPad) ∧
    (lengthFits s.cfg.jobCode F →
      (∀ k : Fin 32, (F[0].extractLsb' 0 5).toNat < k.val → F[k] = 0#8) →
      t.status =
        if F[0].extractLsb' 5 3 = s.cfg.jobCode.setDuty ∧
            s.cfg.dutyLimit.val < (word16 s.cfgEndian F[1] F[2]).toNat
        then .errRange else .ok)

/-- FRM.DEC's command fields: the table of R137 when `STATUS` is OK, and all 0 when it is not. -/
def Obligations.FrmDecExtractsCommandFields : Prop :=
  ∀ (s : State) (F : Frame), ∃ t : State,
    exec (.frmDec F) s = .next t ∧
    (t.status ≠ .ok → t.decFreq = 0#32 ∧ t.decDuty = 0#16 ∧ t.decPin = 0#8 ∧ t.decChannel = 0#8 ∧
      t.decTimer = 0#8) ∧
    (t.status = .ok → F[0].extractLsb' 5 3 = s.cfg.jobCode.initPwm →
      t.decFreq = word32 s.cfgEndian F[1] F[2] F[3] F[4] ∧
      t.decDuty = word16 s.cfgEndian F[5] F[6] ∧
      t.decPin = F[7] ∧ t.decChannel = F[8] ∧ t.decTimer = F[9]) ∧
    (t.status = .ok → F[0].extractLsb' 5 3 = s.cfg.jobCode.setDuty →
      t.decFreq = 0#32 ∧ t.decDuty = word16 s.cfgEndian F[1] F[2] ∧
      t.decPin = F[3] ∧ t.decChannel = F[4] ∧ t.decTimer = 0#8) ∧
    (t.status = .ok →
      F[0].extractLsb' 5 3 = s.cfg.jobCode.restart ∨
        F[0].extractLsb' 5 3 = s.cfg.jobCode.ledToggle →
      t.decFreq = 0#32 ∧ t.decDuty = 0#16 ∧ t.decPin = 0#8 ∧ t.decChannel = 0#8 ∧ t.decTimer = 0#8)

/-! ### Frames of the opcode table's header rows

The rows' meaning is FRM.DEC of the frame, the model's reading (log entry 4); what FRM.DEC does with it
is the spec's. -/

/-- HDR.INIT_PWM completes with every field decoded when its padding is zero, and reports ERR_PAD with
the fields 0 when it is not. -/
def Obligations.HdrInitPwmOutcome : Prop :=
  ∀ (s : State) (body : Payload),
    ((∀ k : Fin 31, 9 ≤ k.val → body[k] = 0#8) →
      exec (.hdrInitPwm 9#5 body) s =
        .next (afterDecode s s.cfg.jobCode.initPwm 9#5 body .ok
          (word32 s.cfgEndian body[0] body[1] body[2] body[3])
          (word16 s.cfgEndian body[4] body[5]) body[6] body[7] body[8])) ∧
    ((∃ k : Fin 31, 9 ≤ k.val ∧ body[k] ≠ 0#8) → ∃ P : Payload, keepsFirst 9 body P ∧
      exec (.hdrInitPwm 9#5 body) s =
        .next (afterDecode s s.cfg.jobCode.initPwm 9#5 P .errPad 0#32 0#16 0#8 0#8 0#8))

/-- HDR.SET_DUTY completes with every field decoded when its padding is zero and its duty is at most
`DUTY_LIMIT`; it reports ERR_PAD or ERR_RANGE, with the fields 0, when not. -/
def Obligations.HdrSetDutyOutcome : Prop :=
  ∀ (s : State) (body : Payload),
    ((∀ k : Fin 31, 4 ≤ k.val → body[k] = 0#8) →
      (word16 s.cfgEndian body[0] body[1]).toNat ≤ s.cfg.dutyLimit.val →
      exec (.hdrSetDuty 4#5 body) s =
        .next (afterDecode s s.cfg.jobCode.setDuty 4#5 body .ok 0#32
          (word16 s.cfgEndian body[0] body[1]) body[2] body[3] 0#8)) ∧
    ((∀ k : Fin 31, 4 ≤ k.val → body[k] = 0#8) →
      s.cfg.dutyLimit.val < (word16 s.cfgEndian body[0] body[1]).toNat →
      exec (.hdrSetDuty 4#5 body) s =
        .next (afterDecode s s.cfg.jobCode.setDuty 4#5 body .errRange 0#32 0#16 0#8 0#8 0#8)) ∧
    ((∃ k : Fin 31, 4 ≤ k.val ∧ body[k] ≠ 0#8) → ∃ P : Payload, keepsFirst 4 body P ∧
      exec (.hdrSetDuty 4#5 body) s =
        .next (afterDecode s s.cfg.jobCode.setDuty 4#5 P .errPad 0#32 0#16 0#8 0#8 0#8))

/-- HDR.RESTART and HDR.LED_TOGGLE complete with OK when bytes 1 to 31 are zero, and report ERR_PAD when
they are not. -/
def Obligations.HdrZeroPayloadOutcome : Prop :=
  ∀ (s : State) (body : Payload),
    (body = Vector.replicate 31 0#8 →
      exec (.hdrRestart 0#5 body) s =
        .next (afterDecode s s.cfg.jobCode.restart 0#5 (Vector.replicate 31 0#8) .ok 0#32 0#16 0#8 0#8 0#8) ∧
      exec (.hdrLedToggle 0#5 body) s =
        .next (afterDecode s s.cfg.jobCode.ledToggle 0#5 (Vector.replicate 31 0#8) .ok 0#32 0#16 0#8 0#8 0#8)) ∧
    (body ≠ Vector.replicate 31 0#8 →
      exec (.hdrRestart 0#5 body) s =
        .next (afterDecode s s.cfg.jobCode.restart 0#5 (Vector.replicate 31 0#8) .errPad 0#32 0#16 0#8 0#8 0#8) ∧
      exec (.hdrLedToggle 0#5 body) s =
        .next (afterDecode s s.cfg.jobCode.ledToggle 0#5 (Vector.replicate 31 0#8) .errPad 0#32 0#16 0#8 0#8 0#8))

/-- Frames of the three reserved jobs and of the unassigned code complete with ERR_JOB: the header and
the payload bytes are still given and the command fields are 0 (R79, R133). Which code is the
unassigned one is log entry 7. -/
def Obligations.HdrReservedJobsReportErrJob : Prop :=
  ∀ (s : State) (len : BitVec 5) (body : Payload), ∃ P : Payload,
    keepsFirst len.toNat body P ∧
    exec (.hdrGetState len body) s =
      .next (afterDecode s s.cfg.jobCode.getState len P .errJob 0#32 0#16 0#8 0#8 0#8) ∧
    exec (.hdrGetFreq len body) s =
      .next (afterDecode s s.cfg.jobCode.getFreq len P .errJob 0#32 0#16 0#8 0#8 0#8) ∧
    exec (.hdrGetDuty len body) s =
      .next (afterDecode s s.cfg.jobCode.getDuty len P .errJob 0#32 0#16 0#8 0#8 0#8) ∧
    exec (.hdrUnassigned0 len body) s =
      .next (afterDecode s (unassignedCode s.cfg.jobCode) len P .errJob 0#32 0#16 0#8 0#8 0#8)

/-! ### The reserved operations -/

/-- Operation codes 6 and 7 write `STATUS <- ERR_OP` and nothing else (R158). -/
def Obligations.ReservedOpsOnlyReportErrOp : Prop :=
  ∀ s : State,
    exec .reserved6 s = .next { s with status := .errOp } ∧
    exec .reserved7 s = .next { s with status := .errOp }

/-! ### The whole machine -/

/-- Every step keeps the invariant of Safety.lean: `TX_FRAME`, `TX_VALID`, `TX_SETTLE` and `TX_LOG`
agree, every logged frame has zero padding, and the decoder's registers agree. A step takes the port's next
action, or none (log entry 3). -/
def Obligations.StepKeepsInvariant : Prop :=
  ∀ s t : State, s.Inv → step s = .next t → t.Inv

/-- The invariant holds right after reset. -/
def Obligations.ResetHasInvariant : Prop := State.reset.Inv

/-- No step changes the byte order or a parameter (R7, R24, R51, R171). The parameters and the port in
the state are log entries 1 and 3. -/
def Obligations.ConfigurationNeverChanges : Prop :=
  ∀ s t : State, step s = .next t → t.cfgEndian = s.cfgEndian ∧ t.cfg = s.cfg

/-- No operation but an encode operation touches the transmit registers or the log (R29, R30, R32). -/
def Obligations.OnlyEncodersTouchTransmitSide : Prop :=
  ∀ (i : Instr) (s t : State), isEncode i = false → exec i s = .next t →
    sameTransmit s t ∧ sameInputs s t

/-- Encode and reserved operations leave every decoder register alone (R33 to R35). -/
def Obligations.OnlyDecodersTouchDecoderRegisters : Prop :=
  ∀ (i : Instr) (s t : State), isEncode i = true ∨ isReserved i = true → exec i s = .next t →
    sameDecoder s t ∧ sameInputs s t

/-- `TX_LOG` holds the frames emitted since reset: a successful encode operation appends exactly its new
`TX_FRAME`, no other operation appends anything, and reset leaves it empty (R36). -/
def Obligations.LogGrowsByTheEmittedFrame : Prop :=
  (∀ (i : Instr) (s : State), ∃ t : State, exec i s = .next t ∧
    (isEncode i = true ∧ t.status = .ok → t.txLog = s.txLog ++ [t.txFrame]) ∧
    (isEncode i = false ∨ t.status ≠ .ok → t.txLog = s.txLog)) ∧
  (∀ s : State, (resetRegisters s).txLog = []) ∧ State.reset.txLog = []

/-- An encode operation sets `TX_VALID` exactly when it succeeds, and a failed one leaves `TX_FRAME`
and `TX_SETTLE` as they were (R29, R30, R32, R175). -/
def Obligations.TxValidTellsEncodeSuccess : Prop :=
  ∀ (i : Instr) (s : State), isEncode i = true → ∃ t : State, exec i s = .next t ∧
    (t.txValid = true ↔ t.status = .ok) ∧
    (t.status = .ok → t.txLog.getLast? = some t.txFrame ∧
      (t.txSettle = .long ↔ t.txFrame[0].extractLsb' 5 3 = s.cfg.jobCode.initPwm)) ∧
    (t.status ≠ .ok → t.txFrame = s.txFrame ∧ t.txSettle = s.txSettle)

/-- Of every frame an encode operation emits, `frame[0] & 0x1F` is the true payload length and every
byte after the payload is 0x00 (R28, R105). -/
def Obligations.EmittedFrameTellsItsLength : Prop :=
  ∀ (i : Instr) (s t : State), isEncode i = true → exec i s = .next t → t.status = .ok →
    (t.txFrame[0] &&& 0x1F#8).toNat = payloadLength i ∧
    ∀ k : Fin 32, payloadLength i < k.val → t.txFrame[k] = 0#8

/-- What an operation answers depends on its request, the byte order and the parameters alone, not on
what any register held (R56, R121). -/
def Obligations.ResultsDependOnRequestAlone : Prop :=
  ∀ (i : Instr) (s₁ s₂ : State), s₁.cfgEndian = s₂.cfgEndian → s₁.cfg = s₂.cfg →
    ∃ t₁ t₂ : State, exec i s₁ = .next t₁ ∧ exec i s₂ = .next t₂ ∧ t₁.status = t₂.status ∧
      (isEncode i = true → t₁.txValid = t₂.txValid ∧
        (t₁.status = .ok → t₁.txFrame = t₂.txFrame ∧ t₁.txSettle = t₂.txSettle)) ∧
      (isEncode i = false → isReserved i = false → sameDecoder t₁ t₂)

/-- Repeating a request repeats its status, and a repeated successful encode emits an identical frame
(R56, R121, R178). -/
def Obligations.RepeatedRequestRepeatsItsResult : Prop :=
  ∀ (i : Instr) (s t : State), exec i s = .next t → ∃ u : State,
    exec i t = .next u ∧ u.status = t.status ∧
    (isEncode i = true → t.status = .ok →
      u.txFrame = t.txFrame ∧ u.txLog = s.txLog ++ [t.txFrame, t.txFrame]) ∧
    (t.status ≠ .ok → u = t)

/-- Until reset is asserted, the log only grows, by at most one frame a step (R36, R171). The port
as a list is log entry 3. -/
def Obligations.LogOnlyGrowsUntilReset : Prop :=
  ∀ s t : State, s.port.head? ≠ some .reset → step s = .next t →
    s.txLog <+: t.txLog ∧ t.txLog.length ≤ s.txLog.length + 1

/-! ### Encoding and decoding together -/

/-- FRM.DEC of a frame FRM.ENC emitted gives back the job, the length and the payload bytes, whatever
its status (R140 (a)). -/
def Obligations.RoundTripRawFrames : Prop :=
  ∀ (s t : State) (job : BitVec 3) (len : BitVec 6) (payload : Payload),
    exec (.frmEnc job len payload) s = .next t → t.status = .ok →
    ∃ u : State, exec (.frmDec t.txFrame) t = .next u ∧ u.decJob = job ∧
      u.decLen.toNat = len.toNat ∧
      ∀ k : Fin 31, k.val < len.toNat → u.decPayload[k] = payload[k]

/-- FRM.DEC of a frame a command emitted answers OK with the command's job and every field (R140 (b),
(c), (d)). -/
def Obligations.RoundTripCommands : Prop :=
  ∀ s t : State, t.status = .ok →
    (∀ (freq duty : BitVec 32) (pin channel timer : Byte),
      exec (.cmdInitPwm freq duty pin channel timer) s = .next t → ∃ u : State,
        exec (.frmDec t.txFrame) t = .next u ∧ u.status = .ok ∧
        u.decJob = s.cfg.jobCode.initPwm ∧ u.decFreq = freq ∧
        (u.decDuty.toNat : Int) = duty.toInt ∧ u.decPin = pin ∧ u.decChannel = channel ∧
        u.decTimer = timer) ∧
    (∀ (duty : BitVec 32) (pin channel : Byte),
      exec (.cmdSetDuty duty pin channel) s = .next t → ∃ u : State,
        exec (.frmDec t.txFrame) t = .next u ∧ u.status = .ok ∧
        u.decJob = s.cfg.jobCode.setDuty ∧ (u.decDuty.toNat : Int) = duty.toInt ∧
        u.decPin = pin ∧ u.decChannel = channel) ∧
    (exec .cmdRestart s = .next t → ∃ u : State,
        exec (.frmDec t.txFrame) t = .next u ∧ u.status = .ok ∧
        u.decJob = s.cfg.jobCode.restart) ∧
    (exec .cmdLedToggle s = .next t → ∃ u : State,
        exec (.frmDec t.txFrame) t = .next u ∧ u.status = .ok ∧
        u.decJob = s.cfg.jobCode.ledToggle)

/-- Every frame FRM.DEC accepts is exactly the frame that the command with the decoded fields emits
(R141). -/
def Obligations.AcceptedFramesAreEmittedFrames : Prop :=
  ∀ (s t : State) (F : Frame), exec (.frmDec F) s = .next t → t.status = .ok →
    ∃ (i : Instr) (u : State), exec i t = .next u ∧ u.status = .ok ∧ u.txFrame = F ∧
      ((t.decJob = s.cfg.jobCode.initPwm ∧
          i = .cmdInitPwm t.decFreq (t.decDuty.setWidth 32) t.decPin t.decChannel t.decTimer) ∨
        (t.decJob = s.cfg.jobCode.setDuty ∧
          i = .cmdSetDuty (t.decDuty.setWidth 32) t.decPin t.decChannel) ∨
        (t.decJob = s.cfg.jobCode.restart ∧ i = .cmdRestart) ∨
        (t.decJob = s.cfg.jobCode.ledToggle ∧ i = .cmdLedToggle))

/-- Two accepted frames with the same decoder registers are the same frame (R141). -/
def Obligations.AcceptedFramesDecodeOneToOne : Prop :=
  ∀ (s t₁ t₂ : State) (F₁ F₂ : Frame), exec (.frmDec F₁) s = .next t₁ →
    exec (.frmDec F₂) s = .next t₂ → t₁.status = .ok → t₂.status = .ok →
    t₁.decJob = t₂.decJob → t₁.decFreq = t₂.decFreq → t₁.decDuty = t₂.decDuty →
    t₁.decPin = t₂.decPin → t₁.decChannel = t₂.decChannel → t₁.decTimer = t₂.decTimer → F₁ = F₂

/-- An INIT_PWM frame built under one byte order and decoded under the other is accepted with its
multi-byte fields byte-reversed and its single-byte fields unaffected (R50, R51). -/
def Obligations.OtherByteOrderReversesFields : Prop :=
  ∀ (s s' t : State) (freq duty : BitVec 32) (pin channel timer : Byte),
    s'.cfgEndian ≠ s.cfgEndian → s'.cfg = s.cfg →
    exec (.cmdInitPwm freq duty pin channel timer) s = .next t → t.status = .ok →
    ∃ u : State, exec (.frmDec t.txFrame) s' = .next u ∧ u.status = .ok ∧
      u.decFreq = swap32 freq ∧ u.decDuty = swap16 (duty.extractLsb' 0 16) ∧
      u.decPin = pin ∧ u.decChannel = channel ∧ u.decTimer = timer

/-! ### The host's side -/

/-- What the host reads in `STATUS`, `CFG_ENDIAN` and `TX_SETTLE`: the codes of R31 (6 is never
read: log entry 8), R24 and R32. -/
def Obligations.RegisterCodesAsListed : Prop :=
  ∀ s : State,
    (s.observe.status =
      match s.status with
      | .ok => 0#3 | .errRange => 1#3 | .errLen => 2#3 | .errJob => 3#3 | .errPad => 4#3
      | .errOp => 5#3 | .none => 7#3) ∧
    (s.observe.cfgEndian = 1#1 ↔ s.cfgEndian = .big) ∧
    (s.observe.txSettle = 1#1 ↔ s.txSettle = .long) ∧
    (s.observe.txValid = 1#1 ↔ s.txValid = true)

/-- When the host has sent the whole log under its duties, it kept the bus after the last frame for the
delay of the class `TX_SETTLE` shows (R32, R172, R173). The delays and the record of transmissions are
the model's forms of them (log entries 10 and 11). -/
def Obligations.TxSettleTellsTheLastPause : Prop :=
  ∀ (s : State) (ts : List Transmission) (x : Transmission), s.Inv → HostKeepsDuties s ts →
    ts.map Transmission.frame = s.txLog → ts.getLast? = some x →
    x.sent + (if s.txSettle = .long then Config.settleLong else Config.settleShort) ≤ x.released

/-- The pseudo-instructions assemble and decode to the requests of their expansions (R84). -/
def Obligations.PseudoInstructionsExpand : Prop :=
  ∀ jc : JobCodes,
    (∀ b0 b1 : Byte, ∃ rs rf rd : Request, ∃ P : Payload,
      assemble jc (expandPseudo (.cmdGetState b0.toNat b1.toNat)) = .ok rs ∧
      assemble jc (expandPseudo (.cmdGetFreq b0.toNat b1.toNat)) = .ok rf ∧
      assemble jc (expandPseudo (.cmdGetDuty b0.toNat b1.toNat)) = .ok rd ∧
      decode jc (.request rs) = .frmEnc jc.getState 2 P ∧
      decode jc (.request rf) = .frmEnc jc.getFreq 2 P ∧
      decode jc (.request rd) = .frmEnc jc.getDuty 2 P ∧
      P.toList = [b0, b1] ++ List.replicate 29 0#8) ∧
    (∀ pin channel : Byte, ∃ r : Request,
      assemble jc (expandPseudo (.cmdStop pin.toNat channel.toNat)) = .ok r ∧
      decode jc (.request r) = .cmdSetDuty 0 pin channel) ∧
    (∀ (job : BitVec 3) (bs : List Byte), bs.length ≤ 31 → ∃ (r : Request) (P : Payload),
      assemble jc (expandPseudo (.frmSend (.code job.toNat) (bs.map BitVec.toNat))) = .ok r ∧
      decode jc (.request r) = .frmEnc job (BitVec.ofNat 6 bs.length) P ∧
      P.toList = bs ++ List.replicate (31 - bs.length) 0#8)
end

