-- ==== Sys2Proof/Laws/Bytes.lean ====
section
/-! SUPPORT. The bytes of words and frames: packing and unpacking, the header byte, what each byte of a
built frame is, and a field read back from its bytes. -/

namespace Sys2Proof.Machine

/-! ### Packed operands -/

theorem valLittle_lt (bs : List Byte) : valLittle bs < 256 ^ bs.length := by
  induction bs with
  | nil => simp [valLittle]
  | cons b bs ih =>
    have hb : b.toNat < 256 := b.isLt
    simp only [valLittle, List.length_cons, Nat.pow_succ]
    omega

/-- Byte i of a packed operand is the i-th byte packed into it (R25, R76). -/
theorem valLittle_byte (bs : List Byte) (i : Nat) (h : i < bs.length) :
    valLittle bs / 256 ^ i % 256 = bs[i].toNat := by
  induction bs generalizing i with
  | nil => simp at h
  | cons b bs ih =>
    have hb : b.toNat < 256 := b.isLt
    cases i with
    | zero => simp only [valLittle, Nat.pow_zero, Nat.div_one, List.getElem_cons_zero]; omega
    | succ i =>
      have hd : (b.toNat + 256 * valLittle bs) / 256 = valLittle bs := by omega
      simp only [List.length_cons, Nat.add_lt_add_iff_right] at h
      simp only [valLittle, List.getElem_cons_succ, Nat.pow_succ']
      rw [← Nat.div_div_eq_div_mul, hd, ih i h]

theorem unpackBytes_getElem {n m : Nat} (v : BitVec m) (i : Nat) (h : i < n) :
    (unpackBytes n v)[i] = v.extractLsb' (8 * i) 8 := by
  simp [unpackBytes]

/-- Unpacking what was packed gives the bytes back (R76). -/
theorem unpackBytes_packBytes {n : Nat} (v : Vector Byte n) :
    unpackBytes n (packBytes (8 * n) v.toList) = v := by
  ext i hi : 1
  rw [unpackBytes_getElem]
  apply BitVec.eq_of_toNat_eq
  have hl : i < v.toList.length := by simpa using hi
  have hlt := valLittle_lt v.toList
  have hp : 2 ^ (8 * n) = 256 ^ n := by rw [Nat.pow_mul]
  have hpi : 2 ^ (8 * i) = 256 ^ i := by rw [Nat.pow_mul]
  simp only [Vector.length_toList] at hlt
  simp only [packBytes, BitVec.extractLsb'_toNat, BitVec.toNat_ofNat, Nat.shiftRight_eq_div_pow]
  rw [hp, Nat.mod_eq_of_lt hlt, hpi]
  simpa using valLittle_byte v.toList i hl

/-! ### The header byte -/

@[simp] theorem headerByte_job (j : BitVec 3) (L : BitVec 5) :
    (headerByte j L).extractLsb' 5 3 = j := by
  revert j L; decide

@[simp] theorem headerByte_len (j : BitVec 3) (L : BitVec 5) :
    (headerByte j L).extractLsb' 0 5 = L := by
  revert j L; decide

@[simp] theorem headerByte_parts (b : Byte) :
    headerByte (b.extractLsb' 5 3) (b.extractLsb' 0 5) = b := by
  revert b; decide

/-! ### Frames from their parts -/

@[simp] theorem headerFrame_zero (j : BitVec 3) (L : BitVec 5) (body : Payload) :
    (headerFrame j L body)[0] = headerByte j L := by
  simp [headerFrame]

@[simp] theorem headerFrame_succ (j : BitVec 3) (L : BitVec 5) (body : Payload) (i : Nat)
    (h : i + 1 < 32) : (headerFrame j L body)[i + 1] = body[i] := by
  simp [headerFrame]

/-- Byte i of a frame built from its parts, for a numeral i. -/
theorem headerFrame_getElem (j : BitVec 3) (L : BitVec 5) (body : Payload) (i : Nat) (h : i < 32) :
    (headerFrame j L body)[i] = if _h0 : i = 0 then headerByte j L else body[i - 1] := by
  simp [headerFrame]

@[simp] theorem headerJob_headerFrame (j : BitVec 3) (L : BitVec 5) (body : Payload) :
    headerJob (headerFrame j L body) = j := by
  simp [headerJob]

@[simp] theorem headerLen_headerFrame (j : BitVec 3) (L : BitVec 5) (body : Payload) :
    headerLen (headerFrame j L body) = L := by
  simp [headerLen]

@[simp] theorem bodyOf_getElem (F : Frame) (i : Nat) (h : i < 31) : (bodyOf F)[i] = F[i + 1] := by
  simp [bodyOf]

@[simp] theorem bodyOf_headerFrame (j : BitVec 3) (L : BitVec 5) (body : Payload) :
    bodyOf (headerFrame j L body) = body := by
  ext i hi : 1
  simp

/-- A frame is its header fields and its other bytes (R27, R57). -/
@[simp] theorem headerFrame_parts (F : Frame) :
    headerFrame (headerJob F) (headerLen F) (bodyOf F) = F := by
  ext i hi : 1
  cases i with
  | zero => simp [headerJob, headerLen]
  | succ i => simp

/-! ### The framing function -/

@[simp] theorem mkFrame_zero (j : BitVec 3) (L : BitVec 5) (p : List Byte) :
    (mkFrame j L p)[0] = headerByte j L := by
  simp [mkFrame]

theorem mkFrame_succ (j : BitVec 3) (L : BitVec 5) (p : List Byte) (i : Nat) (h : i + 1 < 32) :
    (mkFrame j L p)[i + 1] = if i < L.toNat then p.getD i 0#8 else 0#8 := by
  simp [mkFrame]

/-- Byte i of a built frame, for a numeral i (R101). -/
theorem mkFrame_getElem (j : BitVec 3) (L : BitVec 5) (p : List Byte) (i : Nat) (h : i < 32) :
    (mkFrame j L p)[i] =
      if i = 0 then headerByte j L else if i - 1 < L.toNat then p.getD (i - 1) 0#8 else 0#8 := by
  simp [mkFrame]

@[simp] theorem headerJob_mkFrame (j : BitVec 3) (L : BitVec 5) (p : List Byte) :
    headerJob (mkFrame j L p) = j := by
  simp [headerJob]

@[simp] theorem headerLen_mkFrame (j : BitVec 3) (L : BitVec 5) (p : List Byte) :
    headerLen (mkFrame j L p) = L := by
  simp [headerLen]

/-- "In every frame the encoder builds, every padding byte is 0x00" (R28). -/
theorem paddingZero_mkFrame (j : BitVec 3) (L : BitVec 5) (p : List Byte) :
    paddingZero (mkFrame j L p) := by
  intro k hk
  rw [headerLen_mkFrame] at hk
  obtain ⟨k, hlt⟩ := k
  cases k with
  | zero => simp at hk
  | succ i =>
    have hi : ¬ i < L.toNat := by simp only at hk; omega
    show (mkFrame j L p)[i + 1] = 0#8
    rw [mkFrame_succ, if_neg hi]

/-- The padding of a frame built from its parts is the end of its body (R28). -/
theorem paddingZero_headerFrame_iff (j : BitVec 3) (L : BitVec 5) (body : Payload) :
    paddingZero (headerFrame j L body) ↔ ∀ k : Fin 31, L.toNat ≤ k.val → body[k] = 0#8 := by
  simp only [paddingZero, headerLen_headerFrame]
  constructor
  · intro h k hk
    have := h ⟨k.val + 1, by omega⟩ (by simp only; omega)
    simpa using this
  · rintro h ⟨k, hk⟩ hlt
    cases k with
    | zero => simp at hlt
    | succ i =>
      have := h ⟨i, by omega⟩ (by simp only at hlt ⊢; omega)
      simpa using this

/-- A frame with zero padding is the frame of its header fields and its body (R101). -/
theorem mkFrame_of_paddingZero (F : Frame) (h : paddingZero F) :
    mkFrame (headerJob F) (headerLen F) (bodyOf F).toList = F := by
  ext i hi : 1
  cases i with
  | zero => simp [headerJob, headerLen]
  | succ i =>
    rw [mkFrame_succ]
    have hi31 : i < 31 := by omega
    split
    · simp [hi31]
    · next hge =>
      have := h ⟨i + 1, hi⟩ (by simp only; omega)
      exact this.symm

@[simp] theorem decodedPayload_getElem (F : Frame) (i : Nat) (h : i < 31) :
    (decodedPayload F)[i] = if i < (headerLen F).toNat then F[i + 1] else 0#8 := by
  simp [decodedPayload]

/-! ### Fields of two and four bytes -/

theorem bytesE_length (e : Endian) (n : Nat) {w : Nat} (v : BitVec w) :
    (bytesE e n v).length = n := by
  simp [bytesE]

theorem bytesE_big_reverse (n : Nat) {w : Nat} (v : BitVec w) :
    (bytesE .big n v).reverse = bytesE .little n v := by
  apply List.ext_getElem
  · simp [bytesE]
  · intro i h₁ h₂
    have hi : i < n := by simpa [bytesE] using h₂
    have : n - 1 - (n - 1 - i) = i := by omega
    simp [bytesE, this]

theorem valLittle_bytes_little (n : Nat) {w : Nat} (v : BitVec w) :
    valLittle (bytesE .little n v) = v.toNat % 256 ^ n := by
  induction n generalizing w v with
  | zero => simp [bytesE, valLittle, Nat.mod_one]
  | succ n ih =>
    have hs : bytesE .little (n + 1) v =
        v.extractLsb' 0 8 :: bytesE .little n (v >>> 8) := by
      simp only [bytesE, List.range_succ_eq_map, List.map_cons, List.map_map, Nat.mul_zero,
        List.cons.injEq, true_and]
      apply List.map_congr_left
      intro k _
      apply BitVec.eq_of_toNat_eq
      simp only [Function.comp_apply, BitVec.extractLsb'_toNat, BitVec.toNat_ushiftRight]
      rw [← Nat.shiftRight_add]
      congr 2
      omega
    have h8 : (v.extractLsb' 0 8).toNat = v.toNat % 256 := by simp
    have hsh : (v >>> 8).toNat = v.toNat / 256 := by
      simp [BitVec.toNat_ushiftRight, Nat.shiftRight_eq_div_pow]
    rw [hs, valLittle, ih, h8, hsh, Nat.pow_succ', Nat.mod_mul]

/-- Two bitfields side by side, as a number. -/
theorem toNat_append_byte {w : Nat} (x : BitVec w) (b : Byte) :
    (x ++ b).toNat = x.toNat * 256 + b.toNat := by
  rw [BitVec.toNat_append, ← Nat.shiftLeft_add_eq_or_of_lt b.isLt, Nat.shiftLeft_eq]

theorem word16_ofNat_valLittle (b0 b1 : Byte) :
    BitVec.ofNat 16 (valLittle [b0, b1]) = b1 ++ b0 := by
  apply BitVec.eq_of_toNat_eq
  have h0 : b0.toNat < 256 := b0.isLt
  have h1 : b1.toNat < 256 := b1.isLt
  simp only [BitVec.toNat_ofNat, toNat_append_byte, valLittle]
  omega

theorem word32_ofNat_valLittle (b0 b1 b2 b3 : Byte) :
    BitVec.ofNat 32 (valLittle [b0, b1, b2, b3]) = b3 ++ b2 ++ b1 ++ b0 := by
  apply BitVec.eq_of_toNat_eq
  have h0 : b0.toNat < 256 := b0.isLt
  have h1 : b1.toNat < 256 := b1.isLt
  have h2 : b2.toNat < 256 := b2.isLt
  have h3 : b3.toNat < 256 := b3.isLt
  simp only [BitVec.toNat_ofNat, toNat_append_byte, valLittle]
  omega

theorem valLittle_two_lt (b0 b1 : Byte) : valLittle [b0, b1] < 65536 := by
  have h := valLittle_lt [b0, b1]
  simpa using h

end Sys2Proof.Machine
end

