-- ==== Sys2Proof/Laws/Codes.lean ====
section
/-! SUPPORT. Job codes: since no two jobs share a code (R8), a code selects at most one job, and one
code selects none. -/

namespace Sys2Proof.Machine

theorem code_injective (jc : JobCodes) {x y : Job} (h : jc.code x = jc.code y) : x = y := by
  have hd := jc.distinct
  cases x <;> cases y <;> simp_all [JobCodes.code, List.nodup_cons]

/-- `jobOf?` finds the job a code belongs to. -/
theorem jobOf?_code (jc : JobCodes) (x : Job) : jobOf? jc (jc.code x) = some x := by
  have hd := jc.distinct
  cases x <;> simp_all [JobCodes.code, jobOf?, List.nodup_cons, eq_comm]

theorem code_of_jobOf?_eq_some {jc : JobCodes} {j : BitVec 3} {x : Job}
    (h : jobOf? jc j = some x) : jc.code x = j := by
  unfold jobOf? at h
  repeat' split at h
  all_goals simp_all [JobCodes.code]
  all_goals subst h; simp_all

theorem jobOf?_eq_none_iff (jc : JobCodes) (j : BitVec 3) :
    jobOf? jc j = none ↔ ∀ x : Job, jc.code x ≠ j := by
  constructor
  · rintro h x rfl
    simp [jobOf?_code] at h
  · intro h
    cases hx : jobOf? jc j with
    | none => rfl
    | some x => exact absurd (code_of_jobOf?_eq_some hx) (h x)

/-- The codes of the seven jobs. -/
theorem mem_codes_of_code (jc : JobCodes) (x : Job) :
    jc.code x ∈ [jc.initPwm, jc.setDuty, jc.restart, jc.ledToggle, jc.getState, jc.getFreq,
      jc.getDuty] := by
  cases x <;> simp [JobCodes.code]

/-- Some code selects no job: eight codes, seven jobs. -/
theorem exists_unassigned (jc : JobCodes) :
    ∃ c ∈ [0#3, 1#3, 2#3, 3#3, 4#3, 5#3, 6#3, 7#3], (jobOf? jc c).isNone := by
  by_contra hno
  push Not at hno
  have hsub : [0#3, 1#3, 2#3, 3#3, 4#3, 5#3, 6#3, 7#3] ⊆
      [jc.initPwm, jc.setDuty, jc.restart, jc.ledToggle, jc.getState, jc.getFreq, jc.getDuty] := by
    intro c hc
    have h := hno c hc
    cases hx : jobOf? jc c with
    | none => simp [hx] at h
    | some x => exact code_of_jobOf?_eq_some hx ▸ mem_codes_of_code jc x
  have hnd : [0#3, 1#3, 2#3, 3#3, 4#3, 5#3, 6#3, 7#3].Nodup := by decide
  have := (hnd.subperm hsub).length_le
  simp at this

@[simp] theorem jobOf?_unassignedCode (jc : JobCodes) : jobOf? jc (unassignedCode jc) = none := by
  obtain ⟨c, hc, hnone⟩ := exists_unassigned jc
  unfold unassignedCode
  cases hf : [0#3, 1#3, 2#3, 3#3, 4#3, 5#3, 6#3, 7#3].find? fun c => (jobOf? jc c).isNone with
  | none => exact absurd hnone (by simpa using List.find?_eq_none.1 hf c hc)
  | some d => simpa using List.find?_some hf

/-- A command is found by its code and by no other. -/
theorem commandOf?_eq_some_iff (jc : JobCodes) (j : BitVec 3) (c : Command) :
    commandOf? jc j = some c ↔ jc.code c.job = j := by
  have hd := jc.distinct
  constructor
  · intro h
    unfold commandOf? at h
    repeat' split at h
    all_goals simp_all [JobCodes.code]
    all_goals subst h; simp_all [Command.job]
  · rintro rfl
    cases c <;> simp_all [JobCodes.code, Command.job, commandOf?, List.nodup_cons, eq_comm]

theorem commandOf?_eq_none_iff (jc : JobCodes) (j : BitVec 3) :
    commandOf? jc j = none ↔ ∀ c : Command, jc.code c.job ≠ j := by
  constructor
  · rintro h c hc
    simp [(commandOf?_eq_some_iff jc j c).2 hc] at h
  · intro h
    cases hc : commandOf? jc j with
    | none => rfl
    | some c => exact absurd ((commandOf?_eq_some_iff jc j c).1 hc) (h c)

theorem settleClass_eq_long_iff (jc : JobCodes) (j : BitVec 3) :
    settleClass jc j = .long ↔ j = jc.initPwm := by
  unfold settleClass; split <;> simp_all

end Sys2Proof.Machine
end

