-- ==== Sys2Proof/Laws/State.lean ====
section
/-! SUPPORT. What each named register operation leaves in each field: one lemma a field, true by
definition. -/

namespace Sys2Proof.Machine

/-! ### `fail` -/

@[simp] theorem fail_cfgEndian (st : Status) (s : State) :
    (fail st s).cfgEndian = s.cfgEndian := rfl

@[simp] theorem fail_txFrame (st : Status) (s : State) :
    (fail st s).txFrame = s.txFrame := rfl

@[simp] theorem fail_txValid (st : Status) (s : State) :
    (fail st s).txValid = s.txValid := rfl

@[simp] theorem fail_txSettle (st : Status) (s : State) :
    (fail st s).txSettle = s.txSettle := rfl

@[simp] theorem fail_status (st : Status) (s : State) :
    (fail st s).status = st := rfl

@[simp] theorem fail_decJob (st : Status) (s : State) :
    (fail st s).decJob = s.decJob := rfl

@[simp] theorem fail_decLen (st : Status) (s : State) :
    (fail st s).decLen = s.decLen := rfl

@[simp] theorem fail_decPayload (st : Status) (s : State) :
    (fail st s).decPayload = s.decPayload := rfl

@[simp] theorem fail_decFreq (st : Status) (s : State) :
    (fail st s).decFreq = s.decFreq := rfl

@[simp] theorem fail_decDuty (st : Status) (s : State) :
    (fail st s).decDuty = s.decDuty := rfl

@[simp] theorem fail_decPin (st : Status) (s : State) :
    (fail st s).decPin = s.decPin := rfl

@[simp] theorem fail_decChannel (st : Status) (s : State) :
    (fail st s).decChannel = s.decChannel := rfl

@[simp] theorem fail_decTimer (st : Status) (s : State) :
    (fail st s).decTimer = s.decTimer := rfl

@[simp] theorem fail_txLog (st : Status) (s : State) :
    (fail st s).txLog = s.txLog := rfl

@[simp] theorem fail_cfg (st : Status) (s : State) :
    (fail st s).cfg = s.cfg := rfl

@[simp] theorem fail_port (st : Status) (s : State) :
    (fail st s).port = s.port := rfl

/-! ### `failEncode` -/

@[simp] theorem failEncode_cfgEndian (st : Status) (s : State) :
    (failEncode st s).cfgEndian = s.cfgEndian := rfl

@[simp] theorem failEncode_txFrame (st : Status) (s : State) :
    (failEncode st s).txFrame = s.txFrame := rfl

@[simp] theorem failEncode_txValid (st : Status) (s : State) :
    (failEncode st s).txValid = false := rfl

@[simp] theorem failEncode_txSettle (st : Status) (s : State) :
    (failEncode st s).txSettle = s.txSettle := rfl

@[simp] theorem failEncode_status (st : Status) (s : State) :
    (failEncode st s).status = st := rfl

@[simp] theorem failEncode_decJob (st : Status) (s : State) :
    (failEncode st s).decJob = s.decJob := rfl

@[simp] theorem failEncode_decLen (st : Status) (s : State) :
    (failEncode st s).decLen = s.decLen := rfl

@[simp] theorem failEncode_decPayload (st : Status) (s : State) :
    (failEncode st s).decPayload = s.decPayload := rfl

@[simp] theorem failEncode_decFreq (st : Status) (s : State) :
    (failEncode st s).decFreq = s.decFreq := rfl

@[simp] theorem failEncode_decDuty (st : Status) (s : State) :
    (failEncode st s).decDuty = s.decDuty := rfl

@[simp] theorem failEncode_decPin (st : Status) (s : State) :
    (failEncode st s).decPin = s.decPin := rfl

@[simp] theorem failEncode_decChannel (st : Status) (s : State) :
    (failEncode st s).decChannel = s.decChannel := rfl

@[simp] theorem failEncode_decTimer (st : Status) (s : State) :
    (failEncode st s).decTimer = s.decTimer := rfl

@[simp] theorem failEncode_txLog (st : Status) (s : State) :
    (failEncode st s).txLog = s.txLog := rfl

@[simp] theorem failEncode_cfg (st : Status) (s : State) :
    (failEncode st s).cfg = s.cfg := rfl

@[simp] theorem failEncode_port (st : Status) (s : State) :
    (failEncode st s).port = s.port := rfl

/-! ### `succeedEncode` -/

@[simp] theorem succeedEncode_cfgEndian (F : Frame) (c : Settle) (s : State) :
    (succeedEncode F c s).cfgEndian = s.cfgEndian := rfl

@[simp] theorem succeedEncode_txFrame (F : Frame) (c : Settle) (s : State) :
    (succeedEncode F c s).txFrame = F := rfl

@[simp] theorem succeedEncode_txValid (F : Frame) (c : Settle) (s : State) :
    (succeedEncode F c s).txValid = true := rfl

@[simp] theorem succeedEncode_txSettle (F : Frame) (c : Settle) (s : State) :
    (succeedEncode F c s).txSettle = c := rfl

@[simp] theorem succeedEncode_status (F : Frame) (c : Settle) (s : State) :
    (succeedEncode F c s).status = .ok := rfl

@[simp] theorem succeedEncode_decJob (F : Frame) (c : Settle) (s : State) :
    (succeedEncode F c s).decJob = s.decJob := rfl

@[simp] theorem succeedEncode_decLen (F : Frame) (c : Settle) (s : State) :
    (succeedEncode F c s).decLen = s.decLen := rfl

@[simp] theorem succeedEncode_decPayload (F : Frame) (c : Settle) (s : State) :
    (succeedEncode F c s).decPayload = s.decPayload := rfl

@[simp] theorem succeedEncode_decFreq (F : Frame) (c : Settle) (s : State) :
    (succeedEncode F c s).decFreq = s.decFreq := rfl

@[simp] theorem succeedEncode_decDuty (F : Frame) (c : Settle) (s : State) :
    (succeedEncode F c s).decDuty = s.decDuty := rfl

@[simp] theorem succeedEncode_decPin (F : Frame) (c : Settle) (s : State) :
    (succeedEncode F c s).decPin = s.decPin := rfl

@[simp] theorem succeedEncode_decChannel (F : Frame) (c : Settle) (s : State) :
    (succeedEncode F c s).decChannel = s.decChannel := rfl

@[simp] theorem succeedEncode_decTimer (F : Frame) (c : Settle) (s : State) :
    (succeedEncode F c s).decTimer = s.decTimer := rfl

@[simp] theorem succeedEncode_txLog (F : Frame) (c : Settle) (s : State) :
    (succeedEncode F c s).txLog = s.txLog ++ [F] := rfl

@[simp] theorem succeedEncode_cfg (F : Frame) (c : Settle) (s : State) :
    (succeedEncode F c s).cfg = s.cfg := rfl

@[simp] theorem succeedEncode_port (F : Frame) (c : Settle) (s : State) :
    (succeedEncode F c s).port = s.port := rfl

/-! ### `writeHeader` -/

@[simp] theorem writeHeader_cfgEndian (F : Frame) (s : State) :
    (writeHeader F s).cfgEndian = s.cfgEndian := rfl

@[simp] theorem writeHeader_txFrame (F : Frame) (s : State) :
    (writeHeader F s).txFrame = s.txFrame := rfl

@[simp] theorem writeHeader_txValid (F : Frame) (s : State) :
    (writeHeader F s).txValid = s.txValid := rfl

@[simp] theorem writeHeader_txSettle (F : Frame) (s : State) :
    (writeHeader F s).txSettle = s.txSettle := rfl

@[simp] theorem writeHeader_status (F : Frame) (s : State) :
    (writeHeader F s).status = s.status := rfl

@[simp] theorem writeHeader_decJob (F : Frame) (s : State) :
    (writeHeader F s).decJob = headerJob F := rfl

@[simp] theorem writeHeader_decLen (F : Frame) (s : State) :
    (writeHeader F s).decLen = headerLen F := rfl

@[simp] theorem writeHeader_decPayload (F : Frame) (s : State) :
    (writeHeader F s).decPayload = decodedPayload F := rfl

@[simp] theorem writeHeader_decFreq (F : Frame) (s : State) :
    (writeHeader F s).decFreq = s.decFreq := rfl

@[simp] theorem writeHeader_decDuty (F : Frame) (s : State) :
    (writeHeader F s).decDuty = s.decDuty := rfl

@[simp] theorem writeHeader_decPin (F : Frame) (s : State) :
    (writeHeader F s).decPin = s.decPin := rfl

@[simp] theorem writeHeader_decChannel (F : Frame) (s : State) :
    (writeHeader F s).decChannel = s.decChannel := rfl

@[simp] theorem writeHeader_decTimer (F : Frame) (s : State) :
    (writeHeader F s).decTimer = s.decTimer := rfl

@[simp] theorem writeHeader_txLog (F : Frame) (s : State) :
    (writeHeader F s).txLog = s.txLog := rfl

@[simp] theorem writeHeader_cfg (F : Frame) (s : State) :
    (writeHeader F s).cfg = s.cfg := rfl

@[simp] theorem writeHeader_port (F : Frame) (s : State) :
    (writeHeader F s).port = s.port := rfl

/-! ### `writeFields` -/

@[simp] theorem writeFields_cfgEndian (f : CommandFields) (s : State) :
    (writeFields f s).cfgEndian = s.cfgEndian := rfl

@[simp] theorem writeFields_txFrame (f : CommandFields) (s : State) :
    (writeFields f s).txFrame = s.txFrame := rfl

@[simp] theorem writeFields_txValid (f : CommandFields) (s : State) :
    (writeFields f s).txValid = s.txValid := rfl

@[simp] theorem writeFields_txSettle (f : CommandFields) (s : State) :
    (writeFields f s).txSettle = s.txSettle := rfl

@[simp] theorem writeFields_status (f : CommandFields) (s : State) :
    (writeFields f s).status = s.status := rfl

@[simp] theorem writeFields_decJob (f : CommandFields) (s : State) :
    (writeFields f s).decJob = s.decJob := rfl

@[simp] theorem writeFields_decLen (f : CommandFields) (s : State) :
    (writeFields f s).decLen = s.decLen := rfl

@[simp] theorem writeFields_decPayload (f : CommandFields) (s : State) :
    (writeFields f s).decPayload = s.decPayload := rfl

@[simp] theorem writeFields_decFreq (f : CommandFields) (s : State) :
    (writeFields f s).decFreq = f.freq := rfl

@[simp] theorem writeFields_decDuty (f : CommandFields) (s : State) :
    (writeFields f s).decDuty = f.duty := rfl

@[simp] theorem writeFields_decPin (f : CommandFields) (s : State) :
    (writeFields f s).decPin = f.pin := rfl

@[simp] theorem writeFields_decChannel (f : CommandFields) (s : State) :
    (writeFields f s).decChannel = f.channel := rfl

@[simp] theorem writeFields_decTimer (f : CommandFields) (s : State) :
    (writeFields f s).decTimer = f.timer := rfl

@[simp] theorem writeFields_txLog (f : CommandFields) (s : State) :
    (writeFields f s).txLog = s.txLog := rfl

@[simp] theorem writeFields_cfg (f : CommandFields) (s : State) :
    (writeFields f s).cfg = s.cfg := rfl

@[simp] theorem writeFields_port (f : CommandFields) (s : State) :
    (writeFields f s).port = s.port := rfl

/-! ### `resetRegisters` -/

@[simp] theorem resetRegisters_cfgEndian (s : State) :
    (resetRegisters s).cfgEndian = s.cfgEndian := rfl

@[simp] theorem resetRegisters_txFrame (s : State) :
    (resetRegisters s).txFrame = Frame.zero := rfl

@[simp] theorem resetRegisters_txValid (s : State) :
    (resetRegisters s).txValid = false := rfl

@[simp] theorem resetRegisters_txSettle (s : State) :
    (resetRegisters s).txSettle = .short := rfl

@[simp] theorem resetRegisters_status (s : State) :
    (resetRegisters s).status = .none := rfl

@[simp] theorem resetRegisters_decJob (s : State) :
    (resetRegisters s).decJob = 0#3 := rfl

@[simp] theorem resetRegisters_decLen (s : State) :
    (resetRegisters s).decLen = 0#5 := rfl

@[simp] theorem resetRegisters_decPayload (s : State) :
    (resetRegisters s).decPayload = Payload.zero := rfl

@[simp] theorem resetRegisters_decFreq (s : State) :
    (resetRegisters s).decFreq = 0#32 := rfl

@[simp] theorem resetRegisters_decDuty (s : State) :
    (resetRegisters s).decDuty = 0#16 := rfl

@[simp] theorem resetRegisters_decPin (s : State) :
    (resetRegisters s).decPin = 0#8 := rfl

@[simp] theorem resetRegisters_decChannel (s : State) :
    (resetRegisters s).decChannel = 0#8 := rfl

@[simp] theorem resetRegisters_decTimer (s : State) :
    (resetRegisters s).decTimer = 0#8 := rfl

@[simp] theorem resetRegisters_txLog (s : State) :
    (resetRegisters s).txLog = [] := rfl

@[simp] theorem resetRegisters_cfg (s : State) :
    (resetRegisters s).cfg = s.cfg := rfl

@[simp] theorem resetRegisters_port (s : State) :
    (resetRegisters s).port = s.port := rfl

/-! ### `reservedOp` -/

theorem reservedOp_eq_fail (s : State) : reservedOp s = fail .errOp s := rfl

end Sys2Proof.Machine
end

