-- ==== Sys2Proof/Laws/Ops.lean ====
section
/-! SUPPORT. What each shared operation can do, said once: the decoder's checks, a decode, an encode
operation's two outcomes, an instruction, and a step of the port. -/

namespace Sys2Proof.Machine

/-- FRM.DEC's checks all pass exactly for a frame of a command: its code, its length, zero padding, and
for SET_DUTY a duty in range (R133 to R136). -/
theorem decodeCheck_eq_ok_iff (cfg : Params) (e : Endian) (F : Frame) (c : Command) :
    decodeCheck cfg e F = .ok c ↔
      cfg.jobCode.code c.job = headerJob F ∧ headerLen F = commandLen c ∧ paddingZero F ∧
        (c = .setDuty → setDutyValue e F ≤ cfg.dutyLimit.val) := by
  unfold decodeCheck
  constructor
  · intro h
    split at h
    · simp at h
    · next c' hc =>
      split at h
      · simp at h
      · next hlen =>
        split at h
        · simp at h
        · next hpad =>
          split at h
          · simp at h
          · next hr =>
            obtain rfl : c' = c := by simpa using h
            exact ⟨(commandOf?_eq_some_iff ..).1 hc, not_not.1 hlen, not_not.1 hpad,
              fun hs => not_lt.1 fun hlt => hr ⟨hs, hlt⟩⟩
  · rintro ⟨hj, hlen, hpad, hr⟩
    rw [(commandOf?_eq_some_iff ..).2 hj]
    have hnr : ¬ (c = .setDuty ∧ cfg.dutyLimit.val < setDutyValue e F) :=
      fun ⟨hs, hlt⟩ => absurd hlt (not_lt.2 (hr hs))
    simp only [hlen, ne_eq, not_true_eq_false, if_false, hnr, not_not.2 hpad]

/-- FRM.DEC's first failing check (R139). -/
theorem decodeCheck_eq_error (cfg : Params) (e : Endian) (F : Frame) (st : Status)
    (h : decodeCheck cfg e F = .error st) :
    (st = .errJob ∧ ∀ c : Command, cfg.jobCode.code c.job ≠ headerJob F) ∨
    (∃ c : Command, cfg.jobCode.code c.job = headerJob F ∧
      ((st = .errLen ∧ headerLen F ≠ commandLen c) ∨
       (st = .errPad ∧ headerLen F = commandLen c ∧ ¬ paddingZero F) ∨
       (st = .errRange ∧ headerLen F = commandLen c ∧ paddingZero F ∧ c = .setDuty ∧
        cfg.dutyLimit.val < setDutyValue e F))) := by
  unfold decodeCheck at h
  split at h
  · next hc =>
    obtain rfl : Status.errJob = st := by simpa using h
    exact .inl ⟨rfl, (commandOf?_eq_none_iff ..).1 hc⟩
  · next c hc =>
    refine .inr ⟨c, (commandOf?_eq_some_iff ..).1 hc, ?_⟩
    split at h
    · next hlen =>
      obtain rfl : Status.errLen = st := by simpa using h
      exact .inl ⟨rfl, hlen⟩
    · next hlen =>
      have hlen := not_not.1 hlen
      split at h
      · next hpad =>
        obtain rfl : Status.errPad = st := by simpa using h
        exact .inr (.inl ⟨rfl, hlen, hpad⟩)
      · next hpad =>
        split at h
        · next hr =>
          obtain rfl : Status.errRange = st := by simpa using h
          exact .inr (.inr ⟨rfl, hlen, not_not.1 hpad, hr⟩)
        · simp at h

/-- A decode ends OK with the command's fields, or with a failing status and the fields 0; the header
and the payload are written either way (R131, R132, R137). -/
theorem decodeInto_cases (F : Frame) (s : State) :
    (∃ c, decodeCheck s.cfg s.cfgEndian F = .ok c ∧
      decodeInto F s =
        fail .ok (writeFields (commandFields s.cfgEndian c F) (writeHeader F s))) ∨
    (∃ st, st ≠ .ok ∧ st ≠ .none ∧ st ≠ .errOp ∧
      decodeCheck s.cfg s.cfgEndian F = .error st ∧
      decodeInto F s = fail st (writeFields {} (writeHeader F s))) := by
  cases h : decodeCheck s.cfg s.cfgEndian F with
  | ok c => exact .inl ⟨c, rfl, by simp [decodeInto, h, writeFields, fail]⟩
  | error st =>
    refine .inr ⟨st, ?_, ?_, ?_, rfl, by simp [decodeInto, h]⟩ <;>
      (obtain ⟨rfl, -⟩ | ⟨c, -, ⟨rfl, -⟩ | ⟨rfl, -⟩ | ⟨rfl, -⟩⟩ := decodeCheck_eq_error _ _ _ _ h
        <;> simp)

/-- A decode whose checks all pass, from the checks themselves (R137). -/
theorem decodeInto_of_ok (s : State) (F : Frame) (c : Command)
    (hj : s.cfg.jobCode.code c.job = headerJob F) (hlen : headerLen F = commandLen c)
    (hpad : paddingZero F) (hr : c = .setDuty → setDutyValue s.cfgEndian F ≤ s.cfg.dutyLimit.val) :
    decodeInto F s = fail .ok (writeFields (commandFields s.cfgEndian c F) (writeHeader F s)) := by
  have hc := (decodeCheck_eq_ok_iff s.cfg s.cfgEndian F c).2 ⟨hj, hlen, hpad, hr⟩
  rcases decodeInto_cases F s with ⟨d, hd, he⟩ | ⟨st, -, -, -, hst, -⟩
  · obtain rfl : c = d := by simpa [hc] using hd
    exact he
  · simp [hc] at hst

/-- A decode of a frame whose job_id selects no command (R133). -/
theorem decodeInto_of_errJob (s : State) (F : Frame)
    (hj : ∀ c : Command, s.cfg.jobCode.code c.job ≠ headerJob F) :
    decodeInto F s = fail .errJob (writeFields {} (writeHeader F s)) := by
  have h : decodeCheck s.cfg s.cfgEndian F = .error .errJob := by
    unfold decodeCheck; rw [(commandOf?_eq_none_iff ..).2 hj]
  simp only [decodeInto, h]

/-- A decode of a command's frame with another length (R134). -/
theorem decodeInto_of_errLen (s : State) (F : Frame) (c : Command)
    (hj : s.cfg.jobCode.code c.job = headerJob F) (hlen : headerLen F ≠ commandLen c) :
    decodeInto F s = fail .errLen (writeFields {} (writeHeader F s)) := by
  have h : decodeCheck s.cfg s.cfgEndian F = .error .errLen := by
    unfold decodeCheck; rw [(commandOf?_eq_some_iff ..).2 hj]; simp only [if_pos hlen]
  simp only [decodeInto, h]

/-- A decode of a command's frame with a nonzero padding byte (R135). -/
theorem decodeInto_of_errPad (s : State) (F : Frame) (c : Command)
    (hj : s.cfg.jobCode.code c.job = headerJob F) (hlen : headerLen F = commandLen c)
    (hpad : ¬ paddingZero F) :
    decodeInto F s = fail .errPad (writeFields {} (writeHeader F s)) := by
  have h : decodeCheck s.cfg s.cfgEndian F = .error .errPad := by
    unfold decodeCheck
    rw [(commandOf?_eq_some_iff ..).2 hj]
    simp only [if_neg (not_not.2 hlen), if_pos hpad]
  simp only [decodeInto, h]

/-- A decode of a SET_DUTY frame whose duty is over the limit (R136). -/
theorem decodeInto_of_errRange (s : State) (F : Frame)
    (hj : s.cfg.jobCode.setDuty = headerJob F) (hlen : headerLen F = 4#5) (hpad : paddingZero F)
    (hr : s.cfg.dutyLimit.val < setDutyValue s.cfgEndian F) :
    decodeInto F s = fail .errRange (writeFields {} (writeHeader F s)) := by
  have h : decodeCheck s.cfg s.cfgEndian F = .error .errRange := by
    unfold decodeCheck
    rw [(commandOf?_eq_some_iff _ _ .setDuty).2 hj]
    simp only [commandLen, if_neg (not_not.2 hlen), if_neg (not_not.2 hpad), hr, and_self, if_true]
  simp only [decodeInto, h]

/-- Each settle class a command writes is the class of its own code (R32, R110, R113, R117, R119). -/
theorem settleClass_code (jc : JobCodes) (x : Job) :
    settleClass jc (jc.code x) = if x = .initPwm then .long else .short := by
  have h : jc.code x = jc.initPwm ↔ x = .initPwm :=
    ⟨fun h => code_injective jc (h.trans rfl), fun h => h ▸ rfl⟩
  simp only [settleClass, h]

/-- What an instruction can do: emit a frame that `mkFrame` built with the settle class of its job,
refuse to emit, decode a frame, or report ERR_OP. -/
theorem exec_cases (i : Instr) (s : State) :
    (∃ j L p, isEncode i = true ∧
      exec i s = .next (succeedEncode (mkFrame j L p) (settleClass s.cfg.jobCode j) s)) ∨
    (∃ st, isEncode i = true ∧ (st = .errRange ∨ st = .errLen) ∧
      exec i s = .next (failEncode st s)) ∨
    (∃ F, isEncode i = false ∧ isReserved i = false ∧ exec i s = .next (decodeInto F s)) ∨
    (isEncode i = false ∧ isReserved i = true ∧ exec i s = .next (fail .errOp s)) := by
  have hs := settleClass_code s.cfg.jobCode
  cases i with
  | frmEnc job len payload =>
    by_cases h : 31 < len.toNat
    · exact .inr (.inl ⟨.errLen, rfl, .inr rfl, by simp [exec, execFrmEnc, h]⟩)
    · exact .inl ⟨job, len.extractLsb' 0 5, payload.toList, rfl,
        by simp only [exec, execFrmEnc, if_neg h]⟩
  | cmdInitPwm freq duty pin channel timer =>
    by_cases h : initPwmDutyOk duty
    · refine .inl ⟨s.cfg.jobCode.initPwm, 9,
        initPwmPayload s.cfgEndian freq (dutyField duty) pin channel timer, rfl, ?_⟩
      simp only [exec, execCmdInitPwm, if_pos h]
      exact congrArg (fun c => Host.Outcome.next (succeedEncode _ c s)) (hs .initPwm).symm
    · exact .inr (.inl ⟨.errRange, rfl, .inl rfl, by simp only [exec, execCmdInitPwm, if_neg h]⟩)
  | cmdSetDuty duty pin channel =>
    by_cases h : setDutyOk s.cfg duty
    · refine .inl ⟨s.cfg.jobCode.setDuty, 4,
        setDutyPayload s.cfgEndian (dutyField duty) pin channel, rfl, ?_⟩
      simp only [exec, execCmdSetDuty, if_pos h]
      exact congrArg (fun c => Host.Outcome.next (succeedEncode _ c s)) (hs .setDuty).symm
    · exact .inr (.inl ⟨.errRange, rfl, .inl rfl, by simp only [exec, execCmdSetDuty, if_neg h]⟩)
  | cmdRestart =>
    refine .inl ⟨s.cfg.jobCode.restart, 0, [], rfl, ?_⟩
    exact congrArg (fun c => Host.Outcome.next (succeedEncode _ c s)) (hs .restart).symm
  | cmdLedToggle =>
    refine .inl ⟨s.cfg.jobCode.ledToggle, 0, [], rfl, ?_⟩
    exact congrArg (fun c => Host.Outcome.next (succeedEncode _ c s)) (hs .ledToggle).symm
  | frmDec F => exact .inr (.inr (.inl ⟨F, rfl, rfl, rfl⟩))
  | reserved6 => exact .inr (.inr (.inr ⟨rfl, rfl, rfl⟩))
  | reserved7 => exact .inr (.inr (.inr ⟨rfl, rfl, rfl⟩))
  | hdrInitPwm len body => exact .inr (.inr (.inl ⟨_, rfl, rfl, rfl⟩))
  | hdrSetDuty len body => exact .inr (.inr (.inl ⟨_, rfl, rfl, rfl⟩))
  | hdrRestart len body => exact .inr (.inr (.inl ⟨_, rfl, rfl, rfl⟩))
  | hdrLedToggle len body => exact .inr (.inr (.inl ⟨_, rfl, rfl, rfl⟩))
  | hdrGetState len body => exact .inr (.inr (.inl ⟨_, rfl, rfl, rfl⟩))
  | hdrGetFreq len body => exact .inr (.inr (.inl ⟨_, rfl, rfl, rfl⟩))
  | hdrGetDuty len body => exact .inr (.inr (.inl ⟨_, rfl, rfl, rfl⟩))
  | hdrUnassigned0 len body => exact .inr (.inr (.inl ⟨_, rfl, rfl, rfl⟩))

/-- What a step can do: wait with nothing presented, reset the registers, or perform the presented
operation. -/
theorem step_cases (s : State) :
    (s.port = [] ∧ step s = .next s) ∨
    (∃ rest, s.port = .reset :: rest ∧ step s = .next (resetRegisters { s with port := rest })) ∨
    (∃ item rest, s.port = .present item :: rest ∧
      step s = exec (decode s.cfg.jobCode item) { s with port := rest }) := by
  unfold step stepPort
  split
  · next h => exact .inl ⟨h, rfl⟩
  · next a rest h =>
    cases a with
    | reset => exact .inr (.inl ⟨rest, h, rfl⟩)
    | present item => exact .inr (.inr ⟨item, rest, h, rfl⟩)

end Sys2Proof.Machine
end

