-- ==== Sys2Proof/Laws/PerInstr.lean ====
section
/-! SUPPORT. Per-instruction laws. `RowMatch`: the word of an instruction, under the default `JOB_CODE`,
is matched by its own row of the opcode table. -/

namespace Sys2Proof.Laws

open Sys2Proof.Machine

/-- An instruction with a word is matched by a row of the table with its own mnemonic. -/
def RowMatch.Statement (i : Instr) : Prop :=
  i.wellFormed = true →
    ∃ row ∈ tableRows, row.mnemonic = rowMnemonic i ∧ rowMatches row (encode .listed i) = true

/-- The mask of the table's header rows that leave payload_len open, on a header byte. -/
theorem headerByte_masked (j : BitVec 3) (L : BitVec 5) :
    headerByte j L &&& (0xE0 : Byte) = headerByte j 0 := by
  revert j L; decide

theorem RowMatch.frmEnc (job : BitVec 3) (len : BitVec 6) (payload : Payload) :
    RowMatch.Statement (.frmEnc job len payload) := fun _ =>
  ⟨⟨"FRM.ENC", false, 0x07, 0x00⟩, by decide, rfl,
    by simp [rowMatches, encode, isHeaderItem, firstByte]⟩

theorem RowMatch.cmdInitPwm (freq duty : BitVec 32) (pin channel timer : Byte) :
    RowMatch.Statement (.cmdInitPwm freq duty pin channel timer) := fun _ =>
  ⟨⟨"CMD.INIT_PWM", false, 0x07, 0x01⟩, by decide, rfl,
    by simp [rowMatches, encode, isHeaderItem, firstByte]⟩

theorem RowMatch.cmdSetDuty (duty : BitVec 32) (pin channel : Byte) :
    RowMatch.Statement (.cmdSetDuty duty pin channel) := fun _ =>
  ⟨⟨"CMD.SET_DUTY", false, 0x07, 0x02⟩, by decide, rfl,
    by simp [rowMatches, encode, isHeaderItem, firstByte]⟩

theorem RowMatch.cmdRestart : RowMatch.Statement .cmdRestart := fun _ =>
  ⟨⟨"CMD.RESTART", false, 0x07, 0x03⟩, by decide, rfl,
    by simp [rowMatches, encode, isHeaderItem, firstByte]⟩

theorem RowMatch.cmdLedToggle : RowMatch.Statement .cmdLedToggle := fun _ =>
  ⟨⟨"CMD.LED_TOGGLE", false, 0x07, 0x04⟩, by decide, rfl,
    by simp [rowMatches, encode, isHeaderItem, firstByte]⟩

theorem RowMatch.frmDec (frame : Frame) : RowMatch.Statement (.frmDec frame) := fun _ =>
  ⟨⟨"FRM.DEC", false, 0x07, 0x05⟩, by decide, rfl,
    by simp [rowMatches, encode, isHeaderItem, firstByte]⟩

theorem RowMatch.reserved6 : RowMatch.Statement .reserved6 := fun _ =>
  ⟨⟨"RESERVED.6", false, 0x07, 0x06⟩, by decide, rfl,
    by simp [rowMatches, encode, isHeaderItem, firstByte]⟩

theorem RowMatch.reserved7 : RowMatch.Statement .reserved7 := fun _ =>
  ⟨⟨"RESERVED.7", false, 0x07, 0x07⟩, by decide, rfl,
    by simp [rowMatches, encode, isHeaderItem, firstByte]⟩

theorem RowMatch.hdrInitPwm (len : BitVec 5) (body : Payload) :
    RowMatch.Statement (.hdrInitPwm len body) := fun h => by
  obtain rfl : len = 9 := by simpa [Instr.wellFormed] using h
  exact ⟨⟨"HDR.INIT_PWM", true, 0xFF, 0x29⟩, by decide, rfl,
    by simp only [rowMatches, encode, isHeaderItem, firstByte, headerFrame_zero]; decide⟩

theorem RowMatch.hdrSetDuty (len : BitVec 5) (body : Payload) :
    RowMatch.Statement (.hdrSetDuty len body) := fun h => by
  obtain rfl : len = 4 := by simpa [Instr.wellFormed] using h
  exact ⟨⟨"HDR.SET_DUTY", true, 0xFF, 0x44⟩, by decide, rfl,
    by simp only [rowMatches, encode, isHeaderItem, firstByte, headerFrame_zero]; decide⟩

theorem RowMatch.hdrRestart (len : BitVec 5) (body : Payload) :
    RowMatch.Statement (.hdrRestart len body) := fun h => by
  obtain rfl : len = 0 := by simpa [Instr.wellFormed] using h
  exact ⟨⟨"HDR.RESTART", true, 0xFF, 0x60⟩, by decide, rfl,
    by simp only [rowMatches, encode, isHeaderItem, firstByte, headerFrame_zero]; decide⟩

theorem RowMatch.hdrLedToggle (len : BitVec 5) (body : Payload) :
    RowMatch.Statement (.hdrLedToggle len body) := fun h => by
  obtain rfl : len = 0 := by simpa [Instr.wellFormed] using h
  exact ⟨⟨"HDR.LED_TOGGLE", true, 0xFF, 0x80⟩, by decide, rfl,
    by simp only [rowMatches, encode, isHeaderItem, firstByte, headerFrame_zero]; decide⟩

theorem RowMatch.hdrGetState (len : BitVec 5) (body : Payload) :
    RowMatch.Statement (.hdrGetState len body) := fun _ =>
  ⟨⟨"HDR.GET_STATE", true, 0xE0, 0xA0⟩, by decide, rfl, by
    simp only [rowMatches, encode, isHeaderItem, firstByte, headerFrame_zero, headerByte_masked]
    decide⟩

theorem RowMatch.hdrGetFreq (len : BitVec 5) (body : Payload) :
    RowMatch.Statement (.hdrGetFreq len body) := fun _ =>
  ⟨⟨"HDR.GET_FREQ", true, 0xE0, 0xC0⟩, by decide, rfl, by
    simp only [rowMatches, encode, isHeaderItem, firstByte, headerFrame_zero, headerByte_masked]
    decide⟩

theorem RowMatch.hdrGetDuty (len : BitVec 5) (body : Payload) :
    RowMatch.Statement (.hdrGetDuty len body) := fun _ =>
  ⟨⟨"HDR.GET_DUTY", true, 0xE0, 0xE0⟩, by decide, rfl, by
    simp only [rowMatches, encode, isHeaderItem, firstByte, headerFrame_zero, headerByte_masked]
    decide⟩

theorem RowMatch.hdrUnassigned0 (len : BitVec 5) (body : Payload) :
    RowMatch.Statement (.hdrUnassigned0 len body) := fun _ =>
  ⟨⟨"HDR.UNASSIGNED_0", true, 0xE0, 0x00⟩, by decide, rfl, by
    simp only [rowMatches, encode, isHeaderItem, firstByte, headerFrame_zero, headerByte_masked]
    decide⟩

end Sys2Proof.Laws
end

