-- ==== Sys2Proof/Tests/Slice0.lean ====
section
/-! SUPPORT. The model's own tests. Expected values are those of spec/95_test_vectors.md (the vector's id
stands in each comment), written out by hand from the encodings of spec/30_encoding.md where it gives
none. The last section shows, for each statement with hypotheses, states and operands that meet them. -/

namespace Sys2Proof.Tests

open Sys2Proof Sys2Proof.Machine Sys2Proof.Certificates

/-- The state after reset of a block configured Little. -/
def littleState : State := { State.reset with cfgEndian := .little }

/-- The state after reset of a block configured Big. -/
def bigState : State := { State.reset with cfgEndian := .big }

/-- A frame from its first bytes, zeros after, as the vectors write one. -/
def frameOf (bs : List Byte) : Frame := Vector.ofFn fun k => bs.getD k.val 0#8

/-- 31 bytes from the first ones, zeros after. -/
def payloadOf (bs : List Byte) : Payload := Vector.ofFn fun k => bs.getD k.val 0#8

/-- The next state of an instruction. -/
def after (i : Instr) (s : State) : State :=
  match exec i s with
  | .next t => t
  | .fault _ => s
  | .refused _ => s

/-- What a host sees of an encode operation: `STATUS`, `TX_VALID`, `TX_SETTLE`, `TX_FRAME` and how many
frames the log holds. -/
def transmitSide (s : State) : Status × Bool × Settle × Frame × Nat :=
  (s.status, s.txValid, s.txSettle, s.txFrame, s.txLog.length)

/-- What a host sees of a decode: `STATUS`, `DEC_JOB`, `DEC_LEN`, `DEC_PAYLOAD`. -/
def decodedHeader (s : State) : Status × BitVec 3 × BitVec 5 × Payload :=
  (s.status, s.decJob, s.decLen, s.decPayload)

/-- `DEC_FREQ`, `DEC_DUTY`, `DEC_PIN`, `DEC_CHANNEL`, `DEC_TIMER`. -/
def decodedFields (s : State) : BitVec 32 × BitVec 16 × Byte × Byte × Byte :=
  (s.decFreq, s.decDuty, s.decPin, s.decChannel, s.decTimer)

/-! ### Ill-formed terms: one for each check of WellFormed -/

theorem test_wellFormed_refuses_initPwm_header_of_8 :
    (Instr.hdrInitPwm 8 (payloadOf [])).wellFormed = false := by decide

theorem test_wellFormed_refuses_setDuty_header_of_5 :
    (Instr.hdrSetDuty 5 (payloadOf [])).wellFormed = false := by decide

theorem test_wellFormed_refuses_restart_header_of_1 :
    (Instr.hdrRestart 1 (payloadOf [])).wellFormed = false := by decide

theorem test_wellFormed_refuses_ledToggle_header_of_4 :
    (Instr.hdrLedToggle 4 (payloadOf [])).wellFormed = false := by decide

/-! ### Decoding: one word for each constructor, from R76's fields (programs P1 to P5) and R70's bytes -/

/-- P4, request 1: op=0, job=7, len=2, payload=[12 00 | 00 x29]. -/
theorem test_decode_frmEnc :
    decode .listed (.request { op := 0b000, job := 0b111, len := 0b000010, payload := 0x12 }) =
      .frmEnc 7 2 (payloadOf [0x12]) := by decide

/-- P1, request 1: op=1, freq=0x000003E8, pin=0x12. -/
theorem test_decode_cmdInitPwm :
    decode .listed (.request { op := 0b001, freq := 0x000003E8, pin := 0x12 }) =
      .cmdInitPwm 1000 0 18 0 0 := by decide

/-- P2, request 3: op=2, duty=0xFFFFFFFF, pin=0x19, channel=0x01. -/
theorem test_decode_cmdSetDuty :
    decode .listed (.request { op := 0b010, duty := 0xFFFFFFFF, pin := 0x19, channel := 0x01 }) =
      .cmdSetDuty (-1) 25 1 := by decide

/-- P5, request 1: op=3. -/
theorem test_decode_cmdRestart : decode .listed (.request { op := 0b011 }) = .cmdRestart := by decide

/-- P5, request 2: op=4; a field the operation does not read is ignored (R76). -/
theorem test_decode_cmdLedToggle :
    decode .listed (.request { op := 0b100, duty := 7, frame := 0x29 }) = .cmdLedToggle := by decide

/-- P1, request 3: op=5, frame=[44 00 08 12 00 | 00 x27], byte i at bits [8i+7:8i]. -/
theorem test_decode_frmDec :
    decode .listed (.request { op := 0b101, frame := 0x12080044 }) =
      .frmDec (frameOf [0x44, 0x00, 0x08, 0x12]) := by decide

theorem test_decode_reserved6 : decode .listed (.request { op := 0b110 }) = .reserved6 := by decide

theorem test_decode_reserved7 : decode .listed (.request { op := 0b111 }) = .reserved7 := by decide

/-- Header byte 001 01001: INIT_PWM, payload_len 9. -/
theorem test_decode_hdrInitPwm :
    decode .listed (.frame (frameOf [0b00101001, 0xE8, 0x03])) =
      .hdrInitPwm 9 (payloadOf [0xE8, 0x03]) := by decide

/-- Header byte 010 00100: SET_DUTY, payload_len 4. -/
theorem test_decode_hdrSetDuty :
    decode .listed (.frame (frameOf [0b01000100, 0xFF, 0x0F, 0x12])) =
      .hdrSetDuty 4 (payloadOf [0xFF, 0x0F, 0x12]) := by decide

/-- Header byte 011 00000: RESTART, payload_len 0. -/
theorem test_decode_hdrRestart :
    decode .listed (.frame (frameOf [0b01100000])) = .hdrRestart 0 (payloadOf []) := by decide

/-- Header byte 100 00000: LED_TOGGLE, payload_len 0. -/
theorem test_decode_hdrLedToggle :
    decode .listed (.frame (frameOf [0b10000000])) = .hdrLedToggle 0 (payloadOf []) := by decide

/-- Header byte 101 00010: GET_STATE, payload_len 2. -/
theorem test_decode_hdrGetState :
    decode .listed (.frame (frameOf [0b10100010, 0xAA, 0xBB])) =
      .hdrGetState 2 (payloadOf [0xAA, 0xBB]) := by decide

/-- Header byte 110 00010: GET_FREQ, payload_len 2. -/
theorem test_decode_hdrGetFreq :
    decode .listed (.frame (frameOf [0b11000010])) = .hdrGetFreq 2 (payloadOf []) := by decide

/-- Header byte 111 11111: GET_DUTY, payload_len 31. -/
theorem test_decode_hdrGetDuty :
    decode .listed (.frame (frameOf [0b11111111])) = .hdrGetDuty 31 (payloadOf []) := by decide

/-- Header byte 000 01000: code 0, payload_len 8. -/
theorem test_decode_hdrUnassigned0 :
    decodeTableWord 8 0b00001000 = some (.hdrUnassigned0 8 (payloadOf [])) := by decide

/-- 010 00101 is SET_DUTY with 5: no row's header, and FRM.DEC of the frame (V-D8). -/
theorem test_decode_command_with_other_length :
    decode .listed (.frame (frameOf [0x45, 0x01])) = .frmDec (frameOf [0x45, 0x01]) := by decide

theorem test_decodeTableWord_refuses_wider : decodeTableWord 8 0x100 = none := by decide

/-- No two rows of one format match the same first byte. -/
theorem test_tableRows_do_not_overlap :
    tableRows.Pairwise fun a b =>
      a.isHeader ≠ b.isHeader ∨ a.mask &&& b.mask &&& (a.value ^^^ b.value) ≠ 0#8 := by decide

/-! ### Fetch: a table word is what the next step runs -/

theorem test_withFetchWord_runs_header :
    (match step (littleState.withFetchWord 8 0x29) with
      | .next t => (t.status, t.decJob, t.decLen)
      | _ => (.none, 0, 0)) = (.ok, 1, 9) := by decide

theorem test_withFetchWord_runs_request :
    (match step (littleState.withFetchWord 8 3) with
      | .next t => (t.status, t.txFrame[0])
      | _ => (.none, 0)) = (.ok, 0x60) := by decide

/-! ### FRM.ENC -/

/-- V-FE2. -/
theorem test_frmEnc_ignores_byte_past_len :
    transmitSide (after (.frmEnc 5 2 (payloadOf [0xAA, 0xBB, 0xCC])) bigState) =
      (.ok, true, .short, frameOf [0xA2, 0xAA, 0xBB], 1) := by decide

/-- V-FE4. -/
theorem test_frmEnc_refuses_len_32 :
    transmitSide (after (.frmEnc 2 32 (Vector.replicate 31 0x01)) littleState) =
      (.errLen, false, .short, frameOf [], 0) := by decide

/-! ### The commands -/

/-- V-IP3, Big. -/
theorem test_initPwm_big :
    transmitSide (after (.cmdInitPwm 0x12345678 0x9ABC 1 2 3) bigState) =
      (.ok, true, .long,
        frameOf [0x29, 0x12, 0x34, 0x56, 0x78, 0x9A, 0xBC, 0x01, 0x02, 0x03], 1) := by decide

/-- V-IP6. -/
theorem test_initPwm_refuses_65536 :
    transmitSide (after (.cmdInitPwm 1000 65536 0 0 0) littleState) =
      (.errRange, false, .short, frameOf [], 0) := by decide

/-- V-SD4, Little. -/
theorem test_setDuty_4096_little :
    transmitSide (after (.cmdSetDuty 4096 12 3) littleState) =
      (.ok, true, .short, frameOf [0x44, 0x00, 0x10, 0x0C, 0x03], 1) := by decide

/-- V-SD7. -/
theorem test_setDuty_refuses_most_negative :
    transmitSide (after (.cmdSetDuty 0x80000000 0 0) bigState) =
      (.errRange, false, .short, frameOf [], 0) := by decide

/-- V-RS1. -/
theorem test_restart :
    transmitSide (after .cmdRestart bigState) = (.ok, true, .short, frameOf [0x60], 1) := by decide

/-- V-LT1. -/
theorem test_ledToggle :
    transmitSide (after .cmdLedToggle littleState) =
      (.ok, true, .short, frameOf [0x80], 1) := by decide

/-! ### FRM.DEC -/

/-- V-D17B: under Big the bytes of V-D17 read reversed, and the INIT_PWM duty is not range-checked. -/
theorem test_frmDec_initPwm_big :
    decodedFields (after (.frmDec (frameOf
      [0x29, 0x78, 0x56, 0x34, 0x12, 0xBC, 0x9A, 0x01, 0x02, 0x03])) bigState) =
      (0x78563412, 0xBC9A, 1, 2, 3) := by decide

/-- V-D13: the length is checked before the padding. -/
theorem test_frmDec_length_before_padding :
    decodedHeader (after (.frmDec (frameOf [0x61, 0xFF])) littleState) =
      (.errLen, 3, 1, payloadOf [0xFF]) := by decide

/-! ### The header rows -/

/-- V-D3, fields. -/
theorem test_hdrInitPwm :
    decodedFields (after (.hdrInitPwm 9 (payloadOf [0xE8, 0x03, 0, 0, 0, 0, 0x12, 0, 0]))
      littleState) = (1000, 0, 18, 0, 0) := by decide

/-- V-D1B: a Little frame under Big reads duty 0xFF0F and fails. -/
theorem test_hdrSetDuty_other_order :
    decodedHeader (after (.hdrSetDuty 4 (payloadOf [0xFF, 0x0F, 0x12, 0x00])) bigState) =
      (.errRange, 2, 4, payloadOf [0xFF, 0x0F, 0x12]) := by decide

/-- V-D12: decoded duty 4096 passes. -/
theorem test_hdrSetDuty_4096 :
    decodedFields (after (.hdrSetDuty 4 (payloadOf [0x00, 0x10, 0x0C, 0x03])) littleState) =
      (0, 4096, 12, 3, 0) := by decide

/-- V-D10: byte 31 is nonzero padding. -/
theorem test_hdrRestart_bad_padding :
    decodedHeader (after (.hdrRestart 0 ((payloadOf []).set 30 1)) littleState) =
      (.errPad, 3, 0, payloadOf []) := by decide

/-- V-D5. -/
theorem test_hdrLedToggle :
    decodedHeader (after (.hdrLedToggle 0 (payloadOf [])) bigState) =
      (.ok, 4, 0, payloadOf []) := by decide

/-- V-D7. -/
theorem test_hdrGetState :
    decodedHeader (after (.hdrGetState 2 (payloadOf [0xAA, 0xBB])) littleState) =
      (.errJob, 5, 2, payloadOf [0xAA, 0xBB]) := by decide

/-- V-G3. -/
theorem test_hdrGetFreq :
    decodedHeader (after (.hdrGetFreq 2 (payloadOf [])) littleState) =
      (.errJob, 6, 2, payloadOf []) := by decide

/-- V-D14: the job is checked first; byte 4 is nonzero padding and is not copied. -/
theorem test_hdrGetDuty :
    decodedHeader (after (.hdrGetDuty 3 (payloadOf [0x01, 0x02, 0x03, 0x04])) littleState) =
      (.errJob, 7, 3, payloadOf [0x01, 0x02, 0x03]) := by decide

/-- V-D6. -/
theorem test_hdrUnassigned0 :
    decodedHeader (after (.hdrUnassigned0 0 (payloadOf [])) littleState) =
      (.errJob, 0, 0, payloadOf []) := by decide

/-! ### The reserved operations -/

/-- V-OP6. -/
theorem test_reserved6 :
    after .reserved6 littleState = { littleState with status := .errOp } := by decide

/-- V-OP7, after V-SD3 (L). -/
theorem test_reserved7 :
    transmitSide (after .reserved7 (after (.cmdSetDuty 4095 18 0) littleState)) =
      (.errOp, true, .short, frameOf [0x44, 0xFF, 0x0F, 0x12], 1) := by decide

/-! ### Reset and the register codes -/

/-- V-RST: reset keeps `CFG_ENDIAN` and reads `STATUS` 7. -/
theorem test_reset_action :
    (match step { after .cmdRestart bigState with port := [.reset] } with
      | .next t => t
      | _ => littleState) = bigState := by decide

theorem test_observe_reset :
    (State.observe bigState).status = 7#3 ∧ (State.observe bigState).cfgEndian = 1#1 := by decide

/-! ### The assembler -/

/-- P2, request 3. -/
theorem test_assemble_setDuty :
    assembleText .listed "cmd.set_duty -1, 25, 1" =
      .ok (some { op := 2, duty := 0xFFFFFFFF, pin := 0x19, channel := 0x01 }) := by decide

/-- P1, request 3. -/
theorem test_assemble_frmDec :
    assembleText .listed "frm.dec [0x44, 0x00, 0x08, 0x12, 0x00] ; read it back" =
      .ok (some { op := 5, frame := 0x12080044 }) := by decide

/-- P4, request 1. -/
theorem test_assemble_getDuty :
    assembleText .listed "cmd.get_duty [0x12, 0x00]" =
      .ok (some { op := 0, job := 7, len := 2, payload := 0x12 }) := by decide

theorem test_assemble_refuses_pin_300 :
    assembleText .listed "cmd.set_duty 1, 300, 0" = .error .valueTooWide := by decide

theorem test_assemble_stop :
    assembleText .listed "cmd.stop 18, 2" =
      .ok (some { op := 2, pin := 0x12, channel := 0x02 }) := by decide

theorem test_assemble_comment_line : assembleText .listed "  ; a comment" = .ok none := by decide

/-! ### Witnesses: states and operands that meet a statement's hypotheses

One for each statement that has hypotheses, and one for each clause at a boundary value. -/

/-- DecodeEncodeRoundTrip, WordMatchesExactlyItsRow. -/
theorem witness_wellFormed :
    (Instr.hdrInitPwm 9 (payloadOf [])).wellFormed = true ∧
      ⟨"HDR.INIT_PWM", true, 0xFF, 0x29⟩ ∈ tableRows := by decide

/-- Every `op` code is some request's (OpCodesSelectTheirOperations). -/
theorem witness_op_codes (c : BitVec 3) : ∃ r : Request, r.op = c := ⟨{ op := c }, rfl⟩

/-- UnassignedCodeIsTheOneLeft, both sides. -/
theorem witness_unassignedCode :
    unassignedCode .listed = 0 ∧ JobCodes.listed.code .getDuty ≠ 0 := by decide

/-- OnlyWholeFramesDecode, both clauses. -/
theorem witness_frame_lengths :
    (List.replicate 31 0x44#8).length ≠ 32 ∧ (List.replicate 32 0x44#8).length = 32 := by decide

/-- StepRunsDecodedInstruction, EveryRequestCompletes. -/
theorem witness_presented :
    ∃ (s : State) (item : PortItem) (rest : List HostAction), s.port = .present item :: rest :=
  ⟨{ littleState with port := [.present (.request { op := 6 })] }, _, _, rfl⟩

/-- StepWithNothingPresentedWaits. -/
theorem witness_nothing_presented : State.reset.port = [] := rfl

/-- ResetRestoresEveryRegister. -/
theorem witness_reset_asserted :
    ∃ (s : State) (rest : List HostAction), s.port = .reset :: rest :=
  ⟨{ littleState with port := [.reset] }, _, rfl⟩

/-- FrmEncOutcome, both clauses at the bound. -/
theorem witness_frmEnc_lengths : (31#6).toNat ≤ 31 ∧ 31 < (32#6).toNat := by decide

/-- FrmEncIgnoresBytesPastLen: two payloads that differ at index `len`. -/
theorem witness_frmEnc_ignored :
    (∀ k : Fin 31, k.val < (2#6).toNat → (payloadOf [1, 2, 3])[k] = (payloadOf [1, 2, 4])[k]) ∧
      payloadOf [1, 2, 3] ≠ payloadOf [1, 2, 4] := by decide

/-- InitPwmOutcome, both clauses at both bounds. -/
theorem witness_initPwm_duties :
    (0 ≤ (65535#32).toInt ∧ (65535#32).toInt ≤ 65535) ∧ 65535 < (65536#32).toInt ∧
      (0xFFFFFFFF#32).toInt < 0 := by decide

/-- SetDutyOutcome, both clauses at both bounds. -/
theorem witness_setDuty_duties :
    (0 ≤ (4096#32).toInt ∧ (4096#32).toInt ≤ (littleState.cfg.dutyLimit.val : Int)) ∧
      (littleState.cfg.dutyLimit.val : Int) < (4097#32).toInt ∧ (0x80000000#32).toInt < 0 := by
  decide

/-- SetDutyBytesEqualItsValue, both clauses at the bound. -/
theorem witness_setDuty_values :
    littleState.cfg.dutyLimit = 4096 ∧ ((0 : Int) ≤ 4096 ∧ (4096 : Int) ≤ 4096) ∧
      (-(2 ^ 31) ≤ (4097 : Int) ∧ (4097 : Int) < 2 ^ 31 ∧ ((4097 : Int) < 0 ∨ (4096 : Int) < 4097)) := by
  decide

/-- FrmDecReportsFirstFailure: a frame for each clause: no command (V-D7), another length (V-D8),
padding (V-D16), and a well-formed one (V-D1). -/
theorem witness_frmDec_checks :
    (frameOf [0xA2, 0xAA, 0xBB])[0].extractLsb' 5 3 ∉ [1#3, 2#3, 3#3, 4#3] ∧
    (frameOf [0x45, 1, 2, 3, 4, 5])[0].extractLsb' 5 3 ∈ [1#3, 2#3, 3#3, 4#3] ∧
    (frameOf [0x45, 1, 2, 3, 4, 5])[0].extractLsb' 0 5 ≠ 4#5 ∧
    (∃ k : Fin 32, 4 < k.val ∧ (frameOf [0x44, 0xFF, 0x0F, 0x12, 0, 1])[k] ≠ 0#8) ∧
    (∀ k : Fin 32, 4 < k.val → (frameOf [0x44, 0xFF, 0x0F, 0x12])[k] = 0#8) := by decide

/-- FrmDecReportsFirstFailure: `lengthFits` of V-D1's header. -/
theorem witness_lengthFits : lengthFits .listed (frameOf [0x44, 0xFF, 0x0F, 0x12]) :=
  .inr (.inl (by decide))

/-- FrmDecExtractsCommandFields: a status for each clause, with the job it names (V-D7, V-D3, V-D1,
V-D4). -/
theorem witness_frmDec_fields :
    (after (.frmDec (frameOf [0xA2])) littleState).status ≠ .ok ∧
    (after (.frmDec (frameOf [0x29, 0xE8, 0x03])) littleState).status = .ok ∧
    (frameOf [0x29])[0].extractLsb' 5 3 = 1#3 ∧
    (after (.frmDec (frameOf [0x44, 0xFF, 0x0F, 0x12])) littleState).status = .ok ∧
    (frameOf [0x44])[0].extractLsb' 5 3 = 2#3 ∧
    (after (.frmDec (frameOf [0x60])) littleState).status = .ok ∧
    (frameOf [0x60])[0].extractLsb' 5 3 = 3#3 := by decide

/-- HdrInitPwmOutcome, both clauses, at frame byte 10. -/
theorem witness_hdrInitPwm_padding :
    (∀ k : Fin 31, 9 ≤ k.val → (payloadOf [0xE8, 3, 0, 0, 0, 0, 18, 0, 7])[k] = 0#8) ∧
      (∃ k : Fin 31, 9 ≤ k.val ∧ ((payloadOf []).set 9 1)[k] ≠ 0#8) := by decide

/-- HdrSetDutyOutcome, its three clauses, at the duty bound and at frame byte 5. -/
theorem witness_hdrSetDuty_clauses :
    (∀ k : Fin 31, 4 ≤ k.val → (payloadOf [0x00, 0x10, 0x0C, 0x03])[k] = 0#8) ∧
    (word16 .little (payloadOf [0x00, 0x10])[0] (payloadOf [0x00, 0x10])[1]).toNat ≤
      littleState.cfg.dutyLimit.val ∧
    littleState.cfg.dutyLimit.val <
      (word16 .little (payloadOf [0x01, 0x10])[0] (payloadOf [0x01, 0x10])[1]).toNat ∧
    (∃ k : Fin 31, 4 ≤ k.val ∧ ((payloadOf []).set 4 1)[k] ≠ 0#8) := by decide

/-- HdrZeroPayloadOutcome, both clauses. -/
theorem witness_hdrZeroPayload :
    payloadOf [] = Vector.replicate 31 0#8 ∧ (payloadOf []).set 30 1 ≠ Vector.replicate 31 0#8 := by
  decide

/-- The state after LED_TOGGLE from reset, configured Little, with a request presented. -/
def toggledState : State :=
  { after .cmdLedToggle littleState with port := [.present (.request { op := 3 })] }

theorem toggledState_txLog : toggledState.txLog = [frameOf [0x80]] := by decide

theorem toggledState_txFrame : toggledState.txFrame = frameOf [0x80] := by decide

theorem toggledState_txSettle :
    toggledState.txSettle = settleClass toggledState.cfg.jobCode (headerJob (frameOf [0x80])) := by
  decide

/-- StepKeepsInvariant, TxSettleTellsTheLastPause: a state past reset that meets the invariant. -/
theorem witness_inv : toggledState.Inv where
  encoder :=
    { validIsLast := fun _ => by rw [toggledState_txLog, toggledState_txFrame]; rfl
      heldIsLast := fun F h => by
        obtain rfl : frameOf [0x80] = F := by simpa [toggledState_txLog] using h
        exact ⟨toggledState_txFrame, toggledState_txSettle⟩
      unusedIsReset := fun h => by simp [toggledState_txLog] at h
      paddedLog := fun F h => by
        obtain rfl : F = frameOf [0x80] := by simpa [toggledState_txLog] using h
        decide }
  decoder :=
    { payloadTail := by decide
      initPwmFields := by decide
      dutyFields := by decide
      dutyBound := by decide }

/-- StepKeepsInvariant, ConfigurationNeverChanges, LogOnlyGrowsUntilReset: a step from it. -/
theorem witness_step :
    toggledState.port.head? ≠ some .reset ∧ ∃ t : State, step toggledState = .next t :=
  ⟨by decide, _, rfl⟩

/-- OnlyEncodersTouchTransmitSide, OnlyDecodersTouchDecoderRegisters (both sorts of instruction),
RepeatedRequestRepeatsItsResult. -/
theorem witness_kinds :
    isEncode (.frmDec (frameOf [])) = false ∧ isEncode .cmdRestart = true ∧
    isReserved .reserved7 = true ∧
    (∃ t : State, exec (.frmDec (frameOf [])) littleState = .next t) ∧
    (∃ t : State, exec .cmdRestart littleState = .next t) ∧
    (∃ t : State, exec .reserved7 littleState = .next t) :=
  ⟨rfl, rfl, rfl, ⟨_, rfl⟩, ⟨_, rfl⟩, ⟨_, rfl⟩⟩

/-- LogGrowsByTheEmittedFrame, TxValidTellsEncodeSuccess: an encode operation of each outcome. -/
theorem witness_encode_outcomes :
    (after (.cmdSetDuty 0 1 2) littleState).status = .ok ∧
    (after (.cmdSetDuty 4097 1 2) littleState).status ≠ .ok ∧
    isEncode (.cmdSetDuty 4097 1 2) = true := by decide

/-- EmittedFrameTellsItsLength, RoundTripRawFrames: FRM.ENC of 31 bytes succeeds. -/
theorem witness_frmEnc_succeeds :
    ∃ t : State, exec (.frmEnc 7 31 (payloadOf [1, 2])) littleState = .next t ∧ t.status = .ok :=
  ⟨after (.frmEnc 7 31 (payloadOf [1, 2])) littleState, rfl, by decide⟩

/-- RoundTripCommands, one for each clause. -/
theorem witness_commands_succeed :
    (∃ t : State, exec (.cmdInitPwm 5 65535 1 2 3) littleState = .next t ∧ t.status = .ok) ∧
    (∃ t : State, exec (.cmdSetDuty 4096 1 2) littleState = .next t ∧ t.status = .ok) ∧
    (∃ t : State, exec .cmdRestart littleState = .next t ∧ t.status = .ok) ∧
    (∃ t : State, exec .cmdLedToggle littleState = .next t ∧ t.status = .ok) :=
  ⟨⟨after (.cmdInitPwm 5 65535 1 2 3) littleState, rfl, by decide⟩,
    ⟨after (.cmdSetDuty 4096 1 2) littleState, rfl, by decide⟩, ⟨_, rfl, rfl⟩, ⟨_, rfl, rfl⟩⟩

/-- ResultsDependOnRequestAlone: two states with one configuration that differ in what they hold. -/
theorem witness_same_configuration :
    littleState.cfgEndian = toggledState.cfgEndian ∧ littleState.cfg = toggledState.cfg ∧
      littleState.txLog ≠ toggledState.txLog := by decide

/-- AcceptedFramesAreEmittedFrames, AcceptedFramesDecodeOneToOne (with one frame twice). -/
theorem witness_accepted :
    ∃ t : State, exec (.frmDec (frameOf [0x44, 0xFF, 0x0F, 0x12])) littleState = .next t ∧
      t.status = .ok :=
  ⟨after (.frmDec (frameOf [0x44, 0xFF, 0x0F, 0x12])) littleState, rfl, by decide⟩

/-- OtherByteOrderReversesFields. -/
theorem witness_other_order :
    bigState.cfgEndian ≠ littleState.cfgEndian ∧ bigState.cfg = littleState.cfg ∧
      (after (.cmdInitPwm 5 65535 1 2 3) littleState).status = .ok := by decide

/-- TxSettleTellsTheLastPause: a host that sent the one frame and kept the short pause. -/
theorem witness_host_duties :
    HostKeepsDuties toggledState [⟨frameOf [0x80], 0, 0, Config.settleShort⟩] ∧
    [(⟨frameOf [0x80], 0, 0, Config.settleShort⟩ : Transmission)].map Transmission.frame =
      toggledState.txLog where
  left :=
    { inOrder := by simp [sentInLogOrder, toggledState_txLog]
      exclusive := by simp [exclusiveBus]
      settled := fun t h => by
        obtain rfl : t = ⟨frameOf [0x80], 0, 0, Config.settleShort⟩ := by simpa using h
        refine ⟨le_rfl, ?_⟩
        rw [show settleClass toggledState.cfg.jobCode (headerJob (frameOf [0x80])) = .short by decide]
        simp [requiredPause] }
  right := by simp [toggledState_txLog]

/-- PseudoInstructionsExpand: 31 listed bytes. -/
theorem witness_frmSend_31 : (List.replicate 31 0x01#8).length ≤ 31 := by decide

end Sys2Proof.Tests
end

section
/-! PROOFS. The statements of spec/00_scope.md: the job code left over (R8, R72), the two byte orders
(R11) and the configuration no step changes (R7, R24). -/

namespace Sys2Proof.Proofs.Scope

open Sys2Proof.Machine Sys2Proof.Certificates

/-! ### The job code left over -/

theorem mem_all_codes (c : BitVec 3) : c ∈ [0#3, 1#3, 2#3, 3#3, 4#3, 5#3, 6#3, 7#3] := by
  revert c; decide

/-- The seven codes as a list are the codes of the jobs (R8). -/
theorem mem_codes_iff (jc : JobCodes) (c : BitVec 3) :
    c ∈ [jc.initPwm, jc.setDuty, jc.restart, jc.ledToggle, jc.getState, jc.getFreq, jc.getDuty] ↔
      ∃ j : Job, jc.code j = c := by
  constructor
  · intro h
    simp only [List.mem_cons, List.not_mem_nil, or_false] at h
    obtain rfl | rfl | rfl | rfl | rfl | rfl | rfl := h
    · exact ⟨.initPwm, rfl⟩
    · exact ⟨.setDuty, rfl⟩
    · exact ⟨.restart, rfl⟩
    · exact ⟨.ledToggle, rfl⟩
    · exact ⟨.getState, rfl⟩
    · exact ⟨.getFreq, rfl⟩
    · exact ⟨.getDuty, rfl⟩
  · rintro ⟨j, rfl⟩
    exact mem_codes_of_code jc j

/-- Two codes that select no job are the same: beside the seven codes of the jobs, two more would be
nine distinct codes of three bits. -/
theorem eq_of_selects_no_job (jc : JobCodes) {c d : BitVec 3} (hc : ∀ j : Job, jc.code j ≠ c)
    (hd : ∀ j : Job, jc.code j ≠ d) : c = d := by
  by_contra hne
  have hcs := (mem_codes_iff jc c).not.2 (not_exists.2 hc)
  have hds := (mem_codes_iff jc d).not.2 (not_exists.2 hd)
  have hnine := List.nodup_cons.2 ⟨List.not_mem_cons_of_ne_of_not_mem hne hcs,
    List.nodup_cons.2 ⟨hds, jc.distinct⟩⟩
  have hle := (hnine.subperm fun x _ => mem_all_codes x).length_le
  simp at hle

theorem unassignedCode_selects_no_job (jc : JobCodes) (j : Job) : jc.code j ≠ unassignedCode jc :=
  (jobOf?_eq_none_iff jc _).1 (jobOf?_unassignedCode jc) j

/-- Settles O6: at most one code selects no job, and the model's unassigned code selects none. -/
theorem unassignedCodeIsTheOneLeft : Obligations.UnassignedCodeIsTheOneLeft := by
  intro jc c
  constructor
  · intro hc
    exact eq_of_selects_no_job jc hc (unassignedCode_selects_no_job jc)
  · rintro rfl
    exact unassignedCode_selects_no_job jc

/-! ### The two byte orders -/

theorem bytesE_little_getElem? (n : Nat) {w : Nat} (v : BitVec w) (k : Nat) (h : k < n) :
    (bytesE .little n v)[k]? = some (v.extractLsb' (8 * k) 8) := by
  simp [bytesE, h]

theorem bytesE_big_getElem? (n : Nat) {w : Nat} (v : BitVec w) (k : Nat) (h : k < n) :
    (bytesE .big n v)[k]? = some (v.extractLsb' (8 * (n - 1 - k)) 8) := by
  simp [bytesE, h]

/-- The value of bytes, least significant first, as the sum R11 gives. -/
theorem valLittle_eq_sum (bs : List Byte) :
    valLittle bs = ((List.range bs.length).map fun i => (bs.getD i 0).toNat * 256 ^ i).sum := by
  induction bs with
  | nil => rfl
  | cons b bs ih =>
    simp only [valLittle, ih, List.length_cons, List.range_succ_eq_map, List.map_cons, List.map_map,
      List.sum_cons, List.getD_cons_zero, Nat.pow_zero, Nat.mul_one, ← List.sum_map_mul_left]
    congr 2
    refine List.map_congr_left fun i _ => ?_
    simp only [Function.comp_apply, Nat.succ_eq_add_one, List.getD_cons_succ, Nat.pow_succ]
    ring

/-- A byte after the others is the most significant one. -/
theorem valLittle_concat (bs : List Byte) (b : Byte) :
    valLittle (bs ++ [b]) = valLittle bs + b.toNat * 256 ^ bs.length := by
  induction bs with
  | nil => simp [valLittle]
  | cons a bs ih =>
    simp only [List.cons_append, valLittle, ih, List.length_cons, Nat.pow_succ]
    ring

/-- The value of bytes, most significant first, as the sum R11 gives. -/
theorem valLittle_reverse_eq_sum (bs : List Byte) :
    valLittle bs.reverse =
      ((List.range bs.length).map fun i => (bs.getD i 0).toNat * 256 ^ (bs.length - 1 - i)).sum := by
  induction bs with
  | nil => rfl
  | cons b bs ih =>
    simp only [List.reverse_cons, valLittle_concat, List.length_reverse, ih, List.length_cons,
      List.range_succ_eq_map, List.map_cons, List.map_map, List.sum_cons, List.getD_cons_zero,
      Nat.add_sub_cancel, Nat.sub_zero]
    rw [Nat.add_comm]
    congr 2
    refine List.map_congr_left fun i _ => ?_
    have hexp : bs.length - 1 - i = bs.length - (i + 1) := by omega
    simp only [Function.comp_apply, Nat.succ_eq_add_one, List.getD_cons_succ, hexp]

/-- Settles O9: the bytes position by position, the values by induction on the bytes. -/
theorem byteOrdersAreAsDefined : Obligations.ByteOrdersAreAsDefined := fun n v bs k =>
  ⟨bytesE_little_getElem? n v k k.isLt, bytesE_big_getElem? n v k k.isLt,
    bytesE_length .little n v, bytesE_length .big n v,
    valLittle_eq_sum bs, valLittle_reverse_eq_sum bs⟩

/-- The first n bytes of a value of any width, written and read in one byte order (R11). -/
theorem valE_bytesE (e : Endian) (n : Nat) {w : Nat} (v : BitVec w) :
    valE e (bytesE e n v) = v.toNat % 256 ^ n := by
  cases e with
  | little => exact valLittle_bytes_little n v
  | big =>
    change valLittle (bytesE .big n v).reverse = _
    rw [bytesE_big_reverse, valLittle_bytes_little]

/-- Settles O10: a value of n bytes is below 256 ^ n, so no byte of it is lost. -/
theorem fieldReadsBackInItsByteOrder : Obligations.FieldReadsBackInItsByteOrder := by
  intro e n v
  have hlt : v.toNat < 256 ^ n := by
    have h := v.isLt
    rwa [Nat.pow_mul] at h
  rw [valE_bytesE, Nat.mod_eq_of_lt hlt]

/-! ### The configuration no step changes -/

theorem fail_sameInputs (st : Status) (s : State) : sameInputs s (fail st s) :=
  ⟨fail_cfgEndian st s, fail_cfg st s, fail_port st s⟩

theorem failEncode_sameInputs (st : Status) (s : State) : sameInputs s (failEncode st s) :=
  ⟨failEncode_cfgEndian st s, failEncode_cfg st s, failEncode_port st s⟩

theorem succeedEncode_sameInputs (F : Frame) (c : Settle) (s : State) :
    sameInputs s (succeedEncode F c s) :=
  ⟨succeedEncode_cfgEndian F c s, succeedEncode_cfg F c s, succeedEncode_port F c s⟩

theorem resetRegisters_sameInputs (s : State) : sameInputs s (resetRegisters s) :=
  ⟨resetRegisters_cfgEndian s, resetRegisters_cfg s, resetRegisters_port s⟩

theorem decodeInto_sameInputs (F : Frame) (s : State) : sameInputs s (decodeInto F s) := by
  obtain ⟨c, -, he⟩ | ⟨st, -, -, -, -, he⟩ := decodeInto_cases F s
  · simp [he, sameInputs]
  · simp [he, sameInputs]

/-- No instruction writes the byte order, a parameter or the port (R7, R24). -/
theorem exec_sameInputs {i : Instr} {s t : State} (h : exec i s = .next t) : sameInputs s t := by
  obtain ⟨j, L, p, -, he⟩ | ⟨st, -, -, he⟩ | ⟨F, -, -, he⟩ | ⟨-, -, he⟩ := exec_cases i s
  all_goals obtain rfl := Host.Outcome.next.inj (he.symm.trans h)
  · exact succeedEncode_sameInputs _ _ s
  · exact failEncode_sameInputs st s
  · exact decodeInto_sameInputs F s
  · exact fail_sameInputs .errOp s

/-- Settles O34, by what a step can do: wait, reset, or perform the presented instruction. -/
theorem configurationNeverChanges : Obligations.ConfigurationNeverChanges := by
  intro s t h
  obtain ⟨-, he⟩ | ⟨rest, -, he⟩ | ⟨item, rest, -, he⟩ := step_cases s
  · obtain rfl := Host.Outcome.next.inj (he.symm.trans h)
    exact ⟨rfl, rfl⟩
  · obtain rfl := Host.Outcome.next.inj (he.symm.trans h)
    obtain ⟨hendian, hcfg, -⟩ := resetRegisters_sameInputs { s with port := rest }
    exact ⟨hendian, hcfg⟩
  · obtain ⟨hendian, hcfg, -⟩ := exec_sameInputs (he.symm.trans h)
    exact ⟨hendian, hcfg⟩

end Sys2Proof.Proofs.Scope
end

section
/-! PROOFS. The statements of spec/10_state.md: the invariant of the registers and the log (R28 to R36),
what each kind of operation may write, and the values after reset (R39). -/

namespace Sys2Proof.Proofs.Registers

open Sys2Proof.Machine Sys2Proof.Certificates Sys2Proof.Proofs.Scope

/-! ### Which registers an operation leaves alone -/

theorem fail_sameTransmit (st : Status) (s : State) : sameTransmit s (fail st s) :=
  ⟨fail_txFrame st s, fail_txValid st s, fail_txSettle st s, fail_txLog st s⟩

theorem decodeInto_sameTransmit (F : Frame) (s : State) : sameTransmit s (decodeInto F s) := by
  obtain ⟨c, -, he⟩ | ⟨st, -, -, -, -, he⟩ := decodeInto_cases F s
  · simp [he, sameTransmit]
  · simp [he, sameTransmit]

theorem fail_sameDecoder (st : Status) (s : State) : sameDecoder s (fail st s) := by
  simp [sameDecoder]

theorem failEncode_sameDecoder (st : Status) (s : State) : sameDecoder s (failEncode st s) := by
  simp [sameDecoder]

theorem succeedEncode_sameDecoder (F : Frame) (c : Settle) (s : State) :
    sameDecoder s (succeedEncode F c s) := by
  simp [sameDecoder]

/-! ### The encoder's part of the invariant -/

/-- The encoder's invariant reads only the transmit registers, the log and the parameters. -/
theorem encoderInv_of_sameTransmit {s t : State} (h : EncoderInv s) (hsame : sameTransmit s t)
    (hcfg : t.cfg = s.cfg) : EncoderInv t := by
  obtain ⟨hframe, hvalid, hsettle, hlog⟩ := hsame
  obtain ⟨hlast, hheld, hunused, hpadded⟩ := h
  constructor <;> simpa only [hframe, hvalid, hsettle, hlog, hcfg]

/-- A failed encode clears `TX_VALID` and keeps the rest (R29, R30). -/
theorem encoderInv_failEncode (st : Status) {s : State} (h : EncoderInv s) :
    EncoderInv (failEncode st s) where
  validIsLast hvalid := absurd hvalid (by simp)
  heldIsLast := h.heldIsLast
  unusedIsReset := h.unusedIsReset
  paddedLog := h.paddedLog

/-- The emitted frame is the last of the log, and its padding is zero (R28, R30, R36). -/
theorem encoderInv_succeedEncode {F : Frame} {s : State} (hpad : paddingZero F)
    (h : EncoderInv s) :
    EncoderInv (succeedEncode F (settleClass s.cfg.jobCode (headerJob F)) s) where
  validIsLast _ := by simp
  heldIsLast G hG := by
    obtain rfl : F = G := by simpa using hG
    exact ⟨rfl, rfl⟩
  unusedIsReset hnil := by simp at hnil
  paddedLog G hG := by
    obtain hold | rfl : G ∈ s.txLog ∨ G = F := by simpa using hG
    · exact h.paddedLog G hold
    · exact hpad

theorem encoderInv_resetRegisters (s : State) : EncoderInv (resetRegisters s) where
  validIsLast hvalid := by simp at hvalid
  heldIsLast F hlast := by simp at hlast
  unusedIsReset _ := ⟨resetRegisters_txFrame s, resetRegisters_txSettle s⟩
  paddedLog F hF := by simp at hF

/-! ### The decoder's part of the invariant -/

/-- The decoder's invariant reads only the decoder registers and the parameters. -/
theorem decoderInv_of_sameDecoder {s t : State} (h : DecoderInv s) (hsame : sameDecoder s t)
    (hcfg : t.cfg = s.cfg) : DecoderInv t := by
  obtain ⟨hjob, hlen, hpayload, hfreq, hduty, hpin, hchannel, htimer⟩ := hsame
  obtain ⟨htail, hinit, hdutyFields, hbound⟩ := h
  constructor <;>
    simpa only [hjob, hlen, hpayload, hfreq, hduty, hpin, hchannel, htimer, hcfg]

/-- A command that has a frequency or a timer is INIT_PWM (R137). -/
theorem eq_initPwm_of_commandFields {e : Endian} {c : Command} {F : Frame}
    (h : (commandFields e c F).freq ≠ 0#32 ∨ (commandFields e c F).timer ≠ 0#8) :
    c = .initPwm := by
  cases c with
  | initPwm => rfl
  | setDuty | restart | ledToggle => simp [commandFields] at h

/-- A command that has a duty, a pin or a channel is INIT_PWM or SET_DUTY (R137). -/
theorem eq_initPwm_or_setDuty_of_commandFields {e : Endian} {c : Command} {F : Frame}
    (h : (commandFields e c F).duty ≠ 0#16 ∨ (commandFields e c F).pin ≠ 0#8 ∨
      (commandFields e c F).channel ≠ 0#8) :
    c = .initPwm ∨ c = .setDuty := by
  cases c with
  | initPwm => exact .inl rfl
  | setDuty => exact .inr rfl
  | restart | ledToggle => simp [commandFields] at h

/-- Keeping 16 bits of a SET_DUTY frame's duty makes it no larger. -/
theorem commandFields_setDuty_duty_le (e : Endian) (F : Frame) :
    (commandFields e .setDuty F).duty.toNat ≤ setDutyValue e F := by
  simpa [commandFields] using Nat.mod_le (setDutyValue e F) 65536

/-- `DEC_PAYLOAD` of a frame is zero from its payload_len on (R132). -/
theorem decodedPayload_tail (F : Frame) (k : Fin 31) (h : (headerLen F).toNat ≤ k.val) :
    (decodedPayload F)[k] = 0#8 := by
  simp [Nat.not_lt.2 h]

/-- A decode that failed has every command field 0 (R137). -/
theorem decoderInv_of_failed_checks (st : Status) (F : Frame) (s : State) :
    DecoderInv (fail st (writeFields {} (writeHeader F s))) where
  payloadTail := decodedPayload_tail F
  initPwmFields hne := by simp at hne
  dutyFields hne := by simp at hne
  dutyBound _ := Nat.zero_le _

/-- A decode whose checks passed has the fields of the frame's command, which is the one that `DEC_JOB`
and `DEC_LEN` show (R133, R134, R136, R137). -/
theorem decoderInv_of_passed_checks {c : Command} {F : Frame} {s : State}
    (h : decodeCheck s.cfg s.cfgEndian F = .ok c) :
    DecoderInv (fail .ok (writeFields (commandFields s.cfgEndian c F) (writeHeader F s))) := by
  obtain ⟨hjob, hlen, -, hrange⟩ := (decodeCheck_eq_ok_iff ..).1 h
  exact
    { payloadTail := decodedPayload_tail F
      initPwmFields := fun hne => by
        obtain rfl := eq_initPwm_of_commandFields hne
        exact ⟨hjob.symm, hlen⟩
      dutyFields := fun hne => by
        obtain rfl | rfl := eq_initPwm_or_setDuty_of_commandFields hne
        · exact .inl ⟨hjob.symm, hlen⟩
        · exact .inr ⟨hjob.symm, hlen⟩
      dutyBound := fun hset => by
        have hcjob : c.job = .setDuty := code_injective s.cfg.jobCode (hjob.trans hset)
        obtain rfl : c = .setDuty := by cases c <;> simp_all [Command.job]
        exact (commandFields_setDuty_duty_le s.cfgEndian F).trans (hrange rfl) }

/-- A decode brings the decoder registers into agreement, whatever they held. -/
theorem decoderInv_decodeInto (F : Frame) (s : State) : DecoderInv (decodeInto F s) := by
  obtain ⟨c, hok, he⟩ | ⟨st, -, -, -, -, he⟩ := decodeInto_cases F s
  · rw [he]
    exact decoderInv_of_passed_checks hok
  · rw [he]
    exact decoderInv_of_failed_checks st F s

theorem decoderInv_resetRegisters (s : State) : DecoderInv (resetRegisters s) where
  payloadTail k _ := by simp [Payload.zero]
  initPwmFields hne := by simp at hne
  dutyFields hne := by simp at hne
  dutyBound _ := Nat.zero_le _

/-! ### The invariant along a step -/

theorem inv_resetRegisters (s : State) : (resetRegisters s).Inv :=
  ⟨encoderInv_resetRegisters s, decoderInv_resetRegisters s⟩

/-- The invariant says nothing of what the host has yet to present. -/
theorem inv_withPort {s : State} (h : s.Inv) (rest : List HostAction) :
    State.Inv { s with port := rest } :=
  ⟨encoderInv_of_sameTransmit h.encoder ⟨rfl, rfl, rfl, rfl⟩ rfl,
    decoderInv_of_sameDecoder h.decoder ⟨rfl, rfl, rfl, rfl, rfl, rfl, rfl, rfl⟩ rfl⟩

/-- Every instruction keeps the invariant: an encode touches one half of it, a decode the other. -/
theorem exec_keeps_inv {i : Instr} {s t : State} (hinv : s.Inv) (h : exec i s = .next t) :
    t.Inv := by
  obtain ⟨j, L, p, -, he⟩ | ⟨st, -, -, he⟩ | ⟨F, -, -, he⟩ | ⟨-, -, he⟩ := exec_cases i s
  all_goals obtain rfl := Host.Outcome.next.inj (he.symm.trans h)
  · have henc := encoderInv_succeedEncode (paddingZero_mkFrame j L p) hinv.encoder
    rw [headerJob_mkFrame] at henc
    exact ⟨henc, decoderInv_of_sameDecoder hinv.decoder (succeedEncode_sameDecoder _ _ s)
      (succeedEncode_cfg _ _ s)⟩
  · exact ⟨encoderInv_failEncode st hinv.encoder,
      decoderInv_of_sameDecoder hinv.decoder (failEncode_sameDecoder st s) (failEncode_cfg st s)⟩
  · obtain ⟨-, hcfg, -⟩ := decodeInto_sameInputs F s
    exact ⟨encoderInv_of_sameTransmit hinv.encoder (decodeInto_sameTransmit F s) hcfg,
      decoderInv_decodeInto F s⟩
  · exact ⟨encoderInv_of_sameTransmit hinv.encoder (fail_sameTransmit .errOp s)
        (fail_cfg .errOp s),
      decoderInv_of_sameDecoder hinv.decoder (fail_sameDecoder .errOp s) (fail_cfg .errOp s)⟩

/-- Settles O32, by what a step can do: wait, reset, or perform the presented instruction. -/
theorem stepKeepsInvariant : Obligations.StepKeepsInvariant := by
  intro s t hinv h
  obtain ⟨-, he⟩ | ⟨rest, -, he⟩ | ⟨item, rest, -, he⟩ := step_cases s
  · obtain rfl := Host.Outcome.next.inj (he.symm.trans h)
    exact hinv
  · obtain rfl := Host.Outcome.next.inj (he.symm.trans h)
    exact inv_resetRegisters _
  · exact exec_keeps_inv (inv_withPort hinv rest) (he.symm.trans h)

/-- Settles O33: the state after reset is what reset makes of itself. -/
theorem resetHasInvariant : Obligations.ResetHasInvariant := inv_resetRegisters State.reset

/-! ### Every operation completes -/

theorem status_mem_of_ne_none {st : Status} (h : st ≠ .none) :
    st ∈ [Status.ok, .errRange, .errLen, .errJob, .errPad, .errOp] := by
  cases st <;> simp_all

theorem statusCode_lt_six {st : Status} (h : st ≠ .none) : (statusCode st).toNat < 6 := by
  cases st <;> simp_all [statusCode]

theorem decodeInto_status_ne_none (F : Frame) (s : State) : (decodeInto F s).status ≠ .none := by
  obtain ⟨c, -, he⟩ | ⟨st, -, hst, -, -, he⟩ := decodeInto_cases F s
  · simp [he]
  · simpa [he] using hst

/-- Every instruction answers a next state, and not with the `STATUS` of reset (R31, R151). -/
theorem exec_completes (i : Instr) (s : State) :
    ∃ t : State, exec i s = .next t ∧ t.status ≠ .none := by
  obtain ⟨j, L, p, -, he⟩ | ⟨st, -, hst, he⟩ | ⟨F, -, -, he⟩ | ⟨-, -, he⟩ := exec_cases i s
  · exact ⟨_, he, by simp⟩
  · refine ⟨_, he, ?_⟩
    obtain rfl | rfl := hst <;> simp
  · exact ⟨_, he, decodeInto_status_ne_none F s⟩
  · exact ⟨_, he, by simp⟩

theorem step_of_present {s : State} {item : PortItem} {rest : List HostAction}
    (h : s.port = .present item :: rest) :
    step s = exec (decode s.cfg.jobCode item) { s with port := rest } := by
  simp only [step, stepPort, h, perform]

theorem step_of_reset {s : State} {rest : List HostAction} (h : s.port = .reset :: rest) :
    step s = .next (resetRegisters { s with port := rest }) := by
  simp only [step, stepPort, h, perform]

/-- Settles O15: the presented instruction completes, and no instruction writes the port. -/
theorem everyRequestCompletes : Obligations.EveryRequestCompletes := by
  intro s item rest hport
  obtain ⟨t, he, hst⟩ := exec_completes (decode s.cfg.jobCode item) { s with port := rest }
  obtain ⟨-, -, htport⟩ := exec_sameInputs he
  exact ⟨t, (step_of_present hport).trans he, htport, status_mem_of_ne_none hst,
    statusCode_lt_six hst⟩

/-! ### The frames of the two sides -/

/-- Settles O35: what is no encode operation decodes a frame or only fails. -/
theorem onlyEncodersTouchTransmitSide : Obligations.OnlyEncodersTouchTransmitSide := by
  intro i s t henc h
  refine ⟨?_, exec_sameInputs h⟩
  obtain ⟨j, L, p, hi, -⟩ | ⟨st, hi, -⟩ | ⟨F, -, -, he⟩ | ⟨-, -, he⟩ := exec_cases i s
  · simp [hi] at henc
  · simp [hi] at henc
  · obtain rfl := Host.Outcome.next.inj (he.symm.trans h)
    exact decodeInto_sameTransmit F s
  · obtain rfl := Host.Outcome.next.inj (he.symm.trans h)
    exact fail_sameTransmit .errOp s

/-- Settles O36: an encode or a reserved operation decodes no frame. -/
theorem onlyDecodersTouchDecoderRegisters : Obligations.OnlyDecodersTouchDecoderRegisters := by
  intro i s t hkind h
  refine ⟨?_, exec_sameInputs h⟩
  obtain ⟨j, L, p, -, he⟩ | ⟨st, -, -, he⟩ | ⟨F, henc, hres, -⟩ | ⟨-, -, he⟩ := exec_cases i s
  · obtain rfl := Host.Outcome.next.inj (he.symm.trans h)
    exact succeedEncode_sameDecoder _ _ s
  · obtain rfl := Host.Outcome.next.inj (he.symm.trans h)
    exact failEncode_sameDecoder st s
  · simp [henc, hres] at hkind
  · obtain rfl := Host.Outcome.next.inj (he.symm.trans h)
    exact fail_sameDecoder .errOp s

/-! ### The log -/

/-- An encode operation either emits a frame and ends OK, or fails and leaves the held frame; it
always answers (R29, R30, R36). -/
theorem exec_encode_cases {i : Instr} (s : State) (henc : isEncode i = true) :
    (∃ j L p, exec i s = .next (succeedEncode (mkFrame j L p) (settleClass s.cfg.jobCode j) s)) ∨
    (∃ st, st ≠ .ok ∧ exec i s = .next (failEncode st s)) := by
  obtain ⟨j, L, p, -, he⟩ | ⟨st, -, hst, he⟩ | ⟨F, hi, -⟩ | ⟨hi, -⟩ := exec_cases i s
  · exact .inl ⟨j, L, p, he⟩
  · refine .inr ⟨st, ?_, he⟩
    obtain rfl | rfl := hst <;> simp
  · simp [hi] at henc
  · simp [hi] at henc

theorem exec_txLog_of_encode_ok {i : Instr} {s t : State} (h : exec i s = .next t)
    (henc : isEncode i = true) (hok : t.status = .ok) : t.txLog = s.txLog ++ [t.txFrame] := by
  obtain ⟨j, L, p, he⟩ | ⟨st, hst, he⟩ := exec_encode_cases s henc
  · obtain rfl := Host.Outcome.next.inj (he.symm.trans h)
    simp
  · obtain rfl := Host.Outcome.next.inj (he.symm.trans h)
    exact absurd hok hst

theorem exec_txLog_of_not_encode_or_failed {i : Instr} {s t : State} (h : exec i s = .next t)
    (hnot : isEncode i = false ∨ t.status ≠ .ok) : t.txLog = s.txLog := by
  cases henc : isEncode i with
  | false =>
    obtain ⟨⟨-, -, -, hlog⟩, -⟩ := onlyEncodersTouchTransmitSide i s t henc h
    exact hlog
  | true =>
    obtain ⟨j, L, p, he⟩ | ⟨st, -, he⟩ := exec_encode_cases s henc
    · obtain rfl := Host.Outcome.next.inj (he.symm.trans h)
      simp [henc] at hnot
    · obtain rfl := Host.Outcome.next.inj (he.symm.trans h)
      exact failEncode_txLog st s

/-- Settles O37: an emitted frame is appended, every other outcome keeps the log, reset empties it. -/
theorem logGrowsByTheEmittedFrame : Obligations.LogGrowsByTheEmittedFrame := by
  refine ⟨fun i s => ?_, resetRegisters_txLog, rfl⟩
  obtain ⟨t, he, -⟩ := exec_completes i s
  exact ⟨t, he, fun ⟨henc, hok⟩ => exec_txLog_of_encode_ok he henc hok,
    exec_txLog_of_not_encode_or_failed he⟩

/-- An instruction leaves the log or appends one frame to it (R36). -/
theorem exec_txLog_cases {i : Instr} {s t : State} (h : exec i s = .next t) :
    t.txLog = s.txLog ∨ ∃ F, t.txLog = s.txLog ++ [F] := by
  by_cases hok : t.status = .ok
  · cases henc : isEncode i with
    | false => exact .inl (exec_txLog_of_not_encode_or_failed h (.inl henc))
    | true => exact .inr ⟨t.txFrame, exec_txLog_of_encode_ok h henc hok⟩
  · exact .inl (exec_txLog_of_not_encode_or_failed h (.inr hok))

/-- Settles O42: with reset shut out, a step waits or performs an instruction. -/
theorem logOnlyGrowsUntilReset : Obligations.LogOnlyGrowsUntilReset := by
  intro s t hnoreset h
  obtain ⟨-, he⟩ | ⟨rest, hport, -⟩ | ⟨item, rest, -, he⟩ := step_cases s
  · obtain rfl := Host.Outcome.next.inj (he.symm.trans h)
    simp
  · simp [hport] at hnoreset
  · obtain hlog | ⟨F, hlog⟩ := exec_txLog_cases (he.symm.trans h)
    · simp [hlog]
    · simp [hlog]

/-! ### What the host learns of the emitted frame -/

/-- Settles O38, by the two outcomes of an encode operation. -/
theorem txValidTellsEncodeSuccess : Obligations.TxValidTellsEncodeSuccess := by
  intro i s henc
  obtain ⟨j, L, p, he⟩ | ⟨st, hst, he⟩ := exec_encode_cases s henc
  · exact ⟨_, he, by simp, by simp [settleClass_eq_long_iff], by simp⟩
  · exact ⟨_, he, by simp [hst], by simp [hst], by simp⟩

/-- `frame[0] & 0x1F` reads the payload_len of a header byte (R27, R105). -/
theorem headerByte_and_lenMask (j : BitVec 3) (L : BitVec 5) :
    (headerByte j L &&& 0x1F#8).toNat = L.toNat := by
  revert j L; decide

/-- The low five bits hold a payload length of at most 31 (R102). -/
theorem toNat_lenField {len : BitVec 6} (h : ¬ 31 < len.toNat) :
    (len.extractLsb' 0 5).toNat = len.toNat := by
  simp only [BitVec.extractLsb'_toNat, Nat.shiftRight_zero]
  omega

/-- An encode operation with one check: when it ends OK it has emitted its frame. -/
theorem eq_succeedEncode_of_ok {c : Prop} [Decidable c] {F : Frame} {cl : Settle} {s t : State}
    (h : (if c then succeedEncode F cl s else failEncode .errRange s) = t)
    (hok : t.status = .ok) : t = succeedEncode F cl s := by
  split at h
  · exact h.symm
  · subst h
    simp at hok

/-- The frame a successful encode operation leaves is built with its payload length (R73, R101). -/
theorem exec_encode_ok_txFrame {i : Instr} {s t : State} (henc : isEncode i = true)
    (h : exec i s = .next t) (hok : t.status = .ok) :
    ∃ j L p, t.txFrame = mkFrame j L p ∧ L.toNat = payloadLength i := by
  cases i with
  | frmEnc job len payload =>
    have ht := Host.Outcome.next.inj h
    split at ht
    · subst ht
      simp at hok
    · next hlen =>
      subst ht
      exact ⟨_, _, _, rfl, toNat_lenField hlen⟩
  | cmdInitPwm freq duty pin channel timer =>
    rw [eq_succeedEncode_of_ok (Host.Outcome.next.inj h) hok]
    exact ⟨_, _, _, rfl, rfl⟩
  | cmdSetDuty duty pin channel =>
    rw [eq_succeedEncode_of_ok (Host.Outcome.next.inj h) hok]
    exact ⟨_, _, _, rfl, rfl⟩
  | cmdRestart =>
    obtain rfl := Host.Outcome.next.inj h
    exact ⟨_, _, _, rfl, rfl⟩
  | cmdLedToggle =>
    obtain rfl := Host.Outcome.next.inj h
    exact ⟨_, _, _, rfl, rfl⟩
  | _ => exact absurd henc Bool.false_ne_true

/-- Settles O39: the frame is a built one, with the operation's payload length in its header. -/
theorem emittedFrameTellsItsLength : Obligations.EmittedFrameTellsItsLength := by
  intro i s t henc h hok
  obtain ⟨j, L, p, hframe, hlen⟩ := exec_encode_ok_txFrame henc h hok
  rw [hframe, ← hlen, mkFrame_zero]
  refine ⟨headerByte_and_lenMask j L, fun k hk => paddingZero_mkFrame j L p k ?_⟩
  rwa [headerLen_mkFrame]

theorem requiredPause_eq (c : Settle) :
    requiredPause c = if c = .long then Config.settleLong else Config.settleShort := by
  cases c <;> rfl

/-- Settles O49: `TX_SETTLE` is the class of the last logged frame, which is the last one sent. -/
theorem txSettleTellsTheLastPause : Obligations.TxSettleTellsTheLastPause := by
  intro s ts x hinv hduties hall hlast
  have hlogLast : s.txLog.getLast? = some x.frame := by
    rw [← hall, List.getLast?_map, hlast, Option.map_some]
  obtain ⟨-, hsettle⟩ := hinv.encoder.heldIsLast x.frame hlogLast
  obtain ⟨-, hpause⟩ := hduties.settled x (List.mem_of_getLast? hlast)
  rwa [← requiredPause_eq, hsettle]

/-! ### Reset and the register codes -/

/-- Settles O13: the reset values of the model are those the table lists. -/
theorem resetRestoresEveryRegister : Obligations.ResetRestoresEveryRegister :=
  fun _ _ hport => step_of_reset hport

theorem valLittle_replicate_zero (n : Nat) : valLittle (List.replicate n 0#8) = 0 := by
  induction n with
  | zero => rfl
  | succ n ih => simp [List.replicate_succ, valLittle, ih]

/-- Zero bytes read as the number zero at any width (R25). -/
theorem packBytes_replicate_zero (m n : Nat) : packBytes m (List.replicate n 0#8) = 0 := by
  simp [packBytes, valLittle_replicate_zero]

/-- Settles O14: every register of the table is a constant, and the zero bytes pack to zero. -/
theorem resetStateHoldsListedValues : Obligations.ResetStateHoldsListedValues := by
  refine ⟨?_, fun s => rfl⟩
  have hframe : packBytes 256 Frame.zero.toList = 0 := packBytes_replicate_zero 256 32
  have hpayload : packBytes 248 Payload.zero.toList = 0 := packBytes_replicate_zero 248 31
  simp only [State.observe, State.reset, hframe, hpayload]
  rfl

/-- Settles O48, register by register. -/
theorem registerCodesAsListed : Obligations.RegisterCodesAsListed := by
  intro s
  refine ⟨?_, ?_, ?_, ?_⟩
  · change statusCode s.status = _
    cases s.status <;> rfl
  · change endianBit s.cfgEndian = 1#1 ↔ _
    cases s.cfgEndian <;> decide
  · change settleBit s.txSettle = 1#1 ↔ _
    cases s.txSettle <;> decide
  · change BitVec.ofBool s.txValid = 1#1 ↔ _
    cases s.txValid <;> decide

end Sys2Proof.Proofs.Registers
end

section
/-! PROOFS. The statements of spec/20_memory.md: operations one at a time in the order the host presents
them (R58), what they answer independent of what the registers held (R56), and multi-byte fields under
the two byte orders (R50, R51). -/

namespace Sys2Proof.Proofs.Port

open Sys2Proof.Machine Sys2Proof.Certificates Sys2Proof.Proofs.Scope Sys2Proof.Proofs.Registers

/-! ### The run -/

/-- Settles O11, by the step rule for a presented item. -/
theorem stepRunsDecodedInstruction : Obligations.StepRunsDecodedInstruction :=
  fun _ _ _ hport => step_of_present hport

/-- Every step completes: it takes the first host action, if there is one, and keeps the byte order and
the parameters (R58, R151). -/
theorem step_completes (s : State) :
    ∃ t : State, step s = .next t ∧ t.port = s.port.tail ∧ t.cfgEndian = s.cfgEndian ∧
      t.cfg = s.cfg := by
  obtain ⟨hport, he⟩ | ⟨rest, hport, he⟩ | ⟨item, rest, hport, he⟩ := step_cases s
  · exact ⟨s, he, by simp [hport], rfl, rfl⟩
  · exact ⟨_, he, by simp [hport], rfl, rfl⟩
  · obtain ⟨t, ht, -⟩ := exec_completes (decode s.cfg.jobCode item) { s with port := rest }
    obtain ⟨hendian, hcfg, htport⟩ := exec_sameInputs ht
    exact ⟨t, he.trans ht, by simp [htport, hport], hendian, hcfg⟩

/-- A run of one step more is the step and the run from the state it answers. -/
theorem run_succ_of_step {s t : State} (h : step s = .next t) (k : Nat) :
    Host.Core.run core (k + 1) s = Host.Core.run core k t := by
  have hcore : core.step s = .next t := h
  simp only [Host.Core.run, hcore]

/-- As many steps as actions wait at the port empty it, by induction on their number. -/
theorem run_port_length (k : Nat) (s : State) (hlen : s.port.length = k) :
    ∃ t : State, Host.Core.run core k s = .next t ∧ t.port = [] ∧ t.cfgEndian = s.cfgEndian ∧
      t.cfg = s.cfg := by
  induction k generalizing s with
  | zero => exact ⟨s, rfl, List.eq_nil_of_length_eq_zero hlen, rfl, rfl⟩
  | succ k ih =>
    obtain ⟨t, hstep, hport, hendian, hcfg⟩ := step_completes s
    obtain ⟨u, hrun, hempty, huendian, hucfg⟩ := ih t (by simp [hport, hlen])
    exact ⟨u, (run_succ_of_step hstep k).trans hrun, hempty, huendian.trans hendian,
      hucfg.trans hcfg⟩

/-- Settles O16, by induction on the number of host actions at the port. -/
theorem runPerformsEverythingPresented : Obligations.RunPerformsEverythingPresented :=
  fun s => run_port_length s.port.length s rfl

/-! ### What an operation answers -/

/-- A state of a block configured with byte order `e` and parameters `cfg` (R7). -/
def ConfiguredAs (e : Endian) (cfg : Params) (s : State) : Prop := s.cfgEndian = e ∧ s.cfg = cfg

/-- The configuration alone selects what an instruction does: in every state with it, one frame is
emitted, or one status refused, or one frame decoded, or ERR_OP reported (R56, R121). -/
theorem exec_cases_of_configuration (i : Instr) (e : Endian) (cfg : Params) :
    (∃ F c, isEncode i = true ∧
      ∀ s, ConfiguredAs e cfg s → exec i s = .next (succeedEncode F c s)) ∨
    (∃ st, isEncode i = true ∧ st ≠ .ok ∧
      ∀ s, ConfiguredAs e cfg s → exec i s = .next (failEncode st s)) ∨
    (∃ F, isEncode i = false ∧
      ∀ s, ConfiguredAs e cfg s → exec i s = .next (decodeInto F s)) ∨
    (isEncode i = false ∧ isReserved i = true ∧ ∀ s, exec i s = .next (fail .errOp s)) := by
  cases i with
  | frmEnc job len payload =>
    by_cases h : 31 < len.toNat
    · refine .inr (.inl ⟨.errLen, rfl, by decide, fun s _ => ?_⟩)
      simp only [exec, execFrmEnc, if_pos h]
    · refine .inl ⟨mkFrame job (len.extractLsb' 0 5) payload.toList,
        settleClass cfg.jobCode job, rfl, ?_⟩
      rintro s ⟨-, rfl⟩
      simp only [exec, execFrmEnc, if_neg h]
  | cmdInitPwm freq duty pin channel timer =>
    by_cases h : initPwmDutyOk duty
    · refine .inl ⟨mkFrame cfg.jobCode.initPwm (commandLen .initPwm)
        (initPwmPayload e freq (dutyField duty) pin channel timer), .long, rfl, ?_⟩
      rintro s ⟨rfl, rfl⟩
      simp only [exec, execCmdInitPwm, if_pos h]
    · refine .inr (.inl ⟨.errRange, rfl, by decide, fun s _ => ?_⟩)
      simp only [exec, execCmdInitPwm, if_neg h]
  | cmdSetDuty duty pin channel =>
    by_cases h : setDutyOk cfg duty
    · refine .inl ⟨mkFrame cfg.jobCode.setDuty (commandLen .setDuty)
        (setDutyPayload e (dutyField duty) pin channel), .short, rfl, ?_⟩
      rintro s ⟨rfl, rfl⟩
      simp only [exec, execCmdSetDuty, if_pos h]
    · refine .inr (.inl ⟨.errRange, rfl, by decide, ?_⟩)
      rintro s ⟨-, rfl⟩
      simp only [exec, execCmdSetDuty, if_neg h]
  | cmdRestart =>
    exact .inl ⟨mkFrame cfg.jobCode.restart 0 [], .short, rfl, fun s ⟨_, h⟩ => h ▸ rfl⟩
  | cmdLedToggle =>
    exact .inl ⟨mkFrame cfg.jobCode.ledToggle 0 [], .short, rfl, fun s ⟨_, h⟩ => h ▸ rfl⟩
  | frmDec F => exact .inr (.inr (.inl ⟨F, rfl, fun _ _ => rfl⟩))
  | reserved6 => exact .inr (.inr (.inr ⟨rfl, rfl, fun _ => rfl⟩))
  | reserved7 => exact .inr (.inr (.inr ⟨rfl, rfl, fun _ => rfl⟩))
  | hdrInitPwm len body =>
    exact .inr (.inr (.inl
      ⟨headerFrame cfg.jobCode.initPwm len body, rfl, fun s ⟨_, h⟩ => h ▸ rfl⟩))
  | hdrSetDuty len body =>
    exact .inr (.inr (.inl
      ⟨headerFrame cfg.jobCode.setDuty len body, rfl, fun s ⟨_, h⟩ => h ▸ rfl⟩))
  | hdrRestart len body =>
    exact .inr (.inr (.inl
      ⟨headerFrame cfg.jobCode.restart len body, rfl, fun s ⟨_, h⟩ => h ▸ rfl⟩))
  | hdrLedToggle len body =>
    exact .inr (.inr (.inl
      ⟨headerFrame cfg.jobCode.ledToggle len body, rfl, fun s ⟨_, h⟩ => h ▸ rfl⟩))
  | hdrGetState len body =>
    exact .inr (.inr (.inl
      ⟨headerFrame cfg.jobCode.getState len body, rfl, fun s ⟨_, h⟩ => h ▸ rfl⟩))
  | hdrGetFreq len body =>
    exact .inr (.inr (.inl
      ⟨headerFrame cfg.jobCode.getFreq len body, rfl, fun s ⟨_, h⟩ => h ▸ rfl⟩))
  | hdrGetDuty len body =>
    exact .inr (.inr (.inl
      ⟨headerFrame cfg.jobCode.getDuty len body, rfl, fun s ⟨_, h⟩ => h ▸ rfl⟩))
  | hdrUnassigned0 len body =>
    exact .inr (.inr (.inl
      ⟨headerFrame (unassignedCode cfg.jobCode) len body, rfl, fun s ⟨_, h⟩ => h ▸ rfl⟩))

/-- A decode answers from the frame and the configuration: one result of the checks, and one value for
every decoder register (R56). -/
theorem decodeInto_of_configuration (F : Frame) (e : Endian) (cfg : Params) :
    ∃ st f, ∀ s, ConfiguredAs e cfg s →
      decodeInto F s = fail st (writeFields f (writeHeader F s)) := by
  cases h : decodeCheck cfg e F with
  | ok c =>
    refine ⟨.ok, commandFields e c F, ?_⟩
    rintro s ⟨rfl, rfl⟩
    simp [decodeInto, h, writeFields, fail]
  | error st =>
    refine ⟨st, {}, ?_⟩
    rintro s ⟨rfl, rfl⟩
    simp only [decodeInto, h]

/-- Settles O40: the same case of an instruction at both states, with the same frame and status. -/
theorem resultsDependOnRequestAlone : Obligations.ResultsDependOnRequestAlone := by
  intro i s₁ s₂ hendian hcfg
  have h₁ : ConfiguredAs s₁.cfgEndian s₁.cfg s₁ := ⟨rfl, rfl⟩
  have h₂ : ConfiguredAs s₁.cfgEndian s₁.cfg s₂ := ⟨hendian.symm, hcfg.symm⟩
  obtain ⟨F, c, henc, he⟩ | ⟨st, henc, hst, he⟩ | ⟨F, henc, he⟩ | ⟨henc, hres, he⟩ :=
    exec_cases_of_configuration i s₁.cfgEndian s₁.cfg
  · exact ⟨_, _, he s₁ h₁, he s₂ h₂, rfl, fun _ => ⟨rfl, fun _ => ⟨rfl, rfl⟩⟩, by simp [henc]⟩
  · exact ⟨_, _, he s₁ h₁, he s₂ h₂, rfl, fun _ => ⟨rfl, fun hok => absurd hok hst⟩,
      by simp [henc]⟩
  · obtain ⟨st, f, hdec⟩ := decodeInto_of_configuration F s₁.cfgEndian s₁.cfg
    refine ⟨_, _, he s₁ h₁, he s₂ h₂, ?_⟩
    rw [hdec s₁ h₁, hdec s₂ h₂]
    exact ⟨rfl, by simp [henc], fun _ _ => ⟨rfl, rfl, rfl, rfl, rfl, rfl, rfl, rfl⟩⟩
  · exact ⟨_, _, he s₁, he s₂, rfl, by simp [henc], by simp [hres]⟩

theorem decodeInto_decodeInto (F : Frame) (s : State) :
    decodeInto F (decodeInto F s) = decodeInto F s := by
  obtain ⟨st, f, hdec⟩ := decodeInto_of_configuration F s.cfgEndian s.cfg
  obtain ⟨hendian, hcfg, -⟩ := decodeInto_sameInputs F s
  rw [hdec (decodeInto F s) ⟨hendian, hcfg⟩, hdec s ⟨rfl, rfl⟩]
  rfl

/-- Settles O41: the state a request left has the same configuration, so the same case applies to it. -/
theorem repeatedRequestRepeatsItsResult : Obligations.RepeatedRequestRepeatsItsResult := by
  intro i s t h
  have hs : ConfiguredAs s.cfgEndian s.cfg s := ⟨rfl, rfl⟩
  obtain ⟨hendian, hcfg, -⟩ := exec_sameInputs h
  have ht : ConfiguredAs s.cfgEndian s.cfg t := ⟨hendian, hcfg⟩
  obtain ⟨F, c, henc, he⟩ | ⟨st, henc, hst, he⟩ | ⟨F, henc, he⟩ | ⟨henc, -, he⟩ :=
    exec_cases_of_configuration i s.cfgEndian s.cfg
  · refine ⟨_, he t ht, ?_⟩
    obtain rfl := Host.Outcome.next.inj ((he s hs).symm.trans h)
    simp
  · refine ⟨_, he t ht, ?_⟩
    obtain rfl := Host.Outcome.next.inj ((he s hs).symm.trans h)
    exact ⟨rfl, fun _ hok => absurd hok hst, fun _ => rfl⟩
  · refine ⟨_, he t ht, ?_⟩
    obtain rfl := Host.Outcome.next.inj ((he s hs).symm.trans h)
    rw [decodeInto_decodeInto]
    exact ⟨rfl, by simp [henc], fun _ => rfl⟩
  · refine ⟨_, he t, ?_⟩
    obtain rfl := Host.Outcome.next.inj ((he s).symm.trans h)
    exact ⟨rfl, by simp [henc], fun _ => rfl⟩

/-! ### The other byte order -/

/-- A field written in one order and read in the other: its most significant byte is read as the least
significant one, whichever the two orders are (R11, R50). -/
theorem valE_bytesE_of_ne {e e' : Endian} (h : e' ≠ e) (n : Nat) {w : Nat} (v : BitVec w) :
    valE e' (bytesE e n v) = valLittle (bytesE .big n v) := by
  cases e' with
  | little => cases e with
    | little => exact absurd rfl h
    | big => rfl
  | big => cases e with
    | little => rw [valE, ← bytesE_big_reverse, List.reverse_reverse]
    | big => exact absurd rfl h

theorem ofNat_valE_bytesE_two_of_ne {e e' : Endian} (h : e' ≠ e) (v : BitVec 16) :
    BitVec.ofNat 16 (valE e' (bytesE e 2 v)) = swap16 v := by
  rw [valE_bytesE_of_ne h]
  exact word16_ofNat_valLittle (v.extractLsb' 8 8) (v.extractLsb' 0 8)

theorem ofNat_valE_bytesE_four_of_ne {e e' : Endian} (h : e' ≠ e) (v : BitVec 32) :
    BitVec.ofNat 32 (valE e' (bytesE e 4 v)) = swap32 v := by
  rw [valE_bytesE_of_ne h]
  exact word32_ofNat_valLittle (v.extractLsb' 24 8) (v.extractLsb' 16 8) (v.extractLsb' 8 8)
    (v.extractLsb' 0 8)

/-- The fields of a built INIT_PWM frame, read in any byte order: frequency and duty are the values of
the bytes written, and the other three are the bytes themselves (R111, R137). -/
theorem commandFields_initPwm_mkFrame (e e' : Endian) (j : BitVec 3) (freq : BitVec 32)
    (duty : BitVec 16) (pin channel timer : Byte) :
    commandFields e' .initPwm (mkFrame j (commandLen .initPwm)
        (initPwmPayload e freq duty pin channel timer)) =
      { freq := BitVec.ofNat 32 (valE e' (bytesE e 4 freq))
        duty := BitVec.ofNat 16 (valE e' (bytesE e 2 duty))
        pin := pin, channel := channel, timer := timer } := by
  simp [commandFields, commandLen, mkFrame_getElem, initPwmPayload, bytesE, List.range_succ]

/-- Settles O47: the header does not depend on the byte order, and each field is read from the bytes
written for it, in the other order. -/
theorem otherByteOrderReversesFields : Obligations.OtherByteOrderReversesFields := by
  intro s s' t freq duty pin channel timer hother hcfg h hok
  rw [eq_succeedEncode_of_ok (Host.Outcome.next.inj h) hok, succeedEncode_txFrame]
  have hjob : s'.cfg.jobCode.code Command.initPwm.job = s.cfg.jobCode.initPwm := by rw [hcfg]; rfl
  refine ⟨_, rfl, ?_⟩
  rw [decodeInto_of_ok s' _ .initPwm (hjob.trans (headerJob_mkFrame ..).symm)
      (headerLen_mkFrame ..) (paddingZero_mkFrame _ _ _) nofun,
    commandFields_initPwm_mkFrame, ofNat_valE_bytesE_four_of_ne hother,
    ofNat_valE_bytesE_two_of_ne hother]
  exact ⟨rfl, rfl, rfl, rfl, rfl, rfl⟩

end Sys2Proof.Proofs.Port
end

section
/-! PROOFS. The statements of spec/30_encoding.md: decode and encode (R71, R76, R77), the rows of the
opcode table (R72, R73), the frames of the reserved jobs (R79) and the pseudo-instructions (R84). -/

namespace Sys2Proof.Proofs.Encoding

open Sys2Proof.Machine Sys2Proof.Certificates Sys2Proof.Laws Sys2Proof.Proofs.Scope

/-! ### The header rows as one family -/

/-- The header row of a job, or of the unassigned code (R72, R73; log entry 7). -/
def headerRow : Option Job → BitVec 5 → Payload → Instr
  | some .initPwm => .hdrInitPwm
  | some .setDuty => .hdrSetDuty
  | some .restart => .hdrRestart
  | some .ledToggle => .hdrLedToggle
  | some .getState => .hdrGetState
  | some .getFreq => .hdrGetFreq
  | some .getDuty => .hdrGetDuty
  | none => .hdrUnassigned0

/-- The job_id of a header row. -/
def headerRowCode (jc : JobCodes) : Option Job → BitVec 3
  | some x => jc.code x
  | none => unassignedCode jc

theorem jobOf?_headerRowCode (jc : JobCodes) (x : Option Job) :
    jobOf? jc (headerRowCode jc x) = x := by
  cases x with
  | none => exact jobOf?_unassignedCode jc
  | some x => exact jobOf?_code jc x

theorem encode_headerRow (jc : JobCodes) (x : Option Job) (L : BitVec 5) (body : Payload) :
    encode jc (headerRow x L body) = .frame (headerFrame (headerRowCode jc x) L body) := by
  obtain _ | _ | _ | _ | _ | _ | _ | _ := x <;> rfl

/-- A bare frame is the header row its job_id selects when that row is well formed, and FRM.DEC of it
when the payload_len is not the command's (log entries 4 and 6). -/
theorem decodeFrame_eq (jc : JobCodes) (F : Frame) :
    decodeFrame jc F =
      if (headerRow (jobOf? jc (headerJob F)) (headerLen F) (bodyOf F)).wellFormed
      then headerRow (jobOf? jc (headerJob F)) (headerLen F) (bodyOf F) else .frmDec F := by
  unfold decodeFrame
  obtain _ | _ | _ | _ | _ | _ | _ | _ := jobOf? jc (headerJob F) <;>
    simp [headerRow, Instr.wellFormed]

theorem decode_encode_headerRow (jc : JobCodes) (x : Option Job) (L : BitVec 5) (body : Payload)
    (h : (headerRow x L body).wellFormed = true) :
    decode jc (encode jc (headerRow x L body)) = headerRow x L body := by
  rw [encode_headerRow, decode, decodeFrame_eq, headerJob_headerFrame, headerLen_headerFrame,
    bodyOf_headerFrame, jobOf?_headerRowCode, if_pos h]

/-! ### Decode and encode -/

/-- Settles O1: a request row by its fields, with the packed bytes read back; a header row by the
row its job_id selects. -/
theorem decodeEncodeRoundTrip : Obligations.DecodeEncodeRoundTrip := by
  intro jc i h
  cases i with
  | frmEnc job len payload => exact congrArg (Instr.frmEnc job len) (unpackBytes_packBytes payload)
  | frmDec frame => exact congrArg Instr.frmDec (unpackBytes_packBytes frame)
  | cmdInitPwm freq duty pin channel timer => rfl
  | cmdSetDuty duty pin channel => rfl
  | cmdRestart => rfl
  | cmdLedToggle => rfl
  | reserved6 => rfl
  | reserved7 => rfl
  | hdrInitPwm len body => exact decode_encode_headerRow jc (some .initPwm) len body h
  | hdrSetDuty len body => exact decode_encode_headerRow jc (some .setDuty) len body h
  | hdrRestart len body => exact decode_encode_headerRow jc (some .restart) len body h
  | hdrLedToggle len body => exact decode_encode_headerRow jc (some .ledToggle) len body h
  | hdrGetState len body => exact decode_encode_headerRow jc (some .getState) len body h
  | hdrGetFreq len body => exact decode_encode_headerRow jc (some .getFreq) len body h
  | hdrGetDuty len body => exact decode_encode_headerRow jc (some .getDuty) len body h
  | hdrUnassigned0 len body => exact decode_encode_headerRow jc none len body h

/-- The operations of the request port are well formed by their types (R76). -/
theorem decodeRequest_wellFormed (r : Request) : (decodeRequest r).wellFormed = true := by
  unfold decodeRequest
  repeat' split
  all_goals rfl

/-- Settles O2: the decoder answers a header row only when it is well formed. -/
theorem decodedInstructionIsWellFormed : Obligations.DecodedInstructionIsWellFormed := by
  intro jc item
  cases item with
  | request r => exact decodeRequest_wellFormed r
  | frame F =>
    rw [decode, decodeFrame_eq]
    split
    · assumption
    · rfl

/-- Settles O5: the bytes of the packed operands, then the operation each `op` code selects. -/
theorem opCodesSelectTheirOperations : Obligations.OpCodesSelectTheirOperations := by
  intro jc r
  refine ⟨unpackBytes 31 r.payload, unpackBytes 32 r.frame,
    fun k => unpackBytes_getElem r.payload k k.isLt,
    fun k => unpackBytes_getElem r.frame k k.isLt, ?_⟩
  cases r with
  | mk op job len payload freq duty pin channel timer frame =>
    refine ⟨?_, ?_, ?_, ?_, ?_, ?_, ?_, ?_⟩ <;>
      · intro h
        subst h
        rfl

/-- Settles O4, word by word. -/
theorem sampleWordsDecode : Obligations.SampleWordsDecode := by
  refine ⟨rfl, rfl, rfl, rfl, rfl, ?_, ?_, ?_, ?_⟩ <;> decide

/-! ### The rows of the opcode table -/

theorem rowMatch (i : Instr) : RowMatch.Statement i := by
  cases i with
  | frmEnc job len payload => exact RowMatch.frmEnc job len payload
  | cmdInitPwm freq duty pin channel timer =>
    exact RowMatch.cmdInitPwm freq duty pin channel timer
  | cmdSetDuty duty pin channel => exact RowMatch.cmdSetDuty duty pin channel
  | cmdRestart => exact RowMatch.cmdRestart
  | cmdLedToggle => exact RowMatch.cmdLedToggle
  | frmDec frame => exact RowMatch.frmDec frame
  | reserved6 => exact RowMatch.reserved6
  | reserved7 => exact RowMatch.reserved7
  | hdrInitPwm len body => exact RowMatch.hdrInitPwm len body
  | hdrSetDuty len body => exact RowMatch.hdrSetDuty len body
  | hdrRestart len body => exact RowMatch.hdrRestart len body
  | hdrLedToggle len body => exact RowMatch.hdrLedToggle len body
  | hdrGetState len body => exact RowMatch.hdrGetState len body
  | hdrGetFreq len body => exact RowMatch.hdrGetFreq len body
  | hdrGetDuty len body => exact RowMatch.hdrGetDuty len body
  | hdrUnassigned0 len body => exact RowMatch.hdrUnassigned0 len body

theorem tableRow_eq_of_mnemonic :
    ∀ a ∈ tableRows, ∀ b ∈ tableRows, a.mnemonic = b.mnemonic → a = b := by decide

/-- Two rows of one format whose values agree on the bits both masks keep are one row. -/
theorem tableRow_eq_of_overlap :
    ∀ a ∈ tableRows, ∀ b ∈ tableRows, a.isHeader = b.isHeader →
      a.value &&& b.mask = b.value &&& a.mask → a = b := by decide

/-- At most one row of the table matches an item. -/
theorem tableRow_eq_of_rowMatches {a b : TableRow} (ha : a ∈ tableRows) (hb : b ∈ tableRows)
    {item : PortItem} (hma : rowMatches a item = true) (hmb : rowMatches b item = true) : a = b := by
  simp only [rowMatches, Bool.and_eq_true, beq_iff_eq] at hma hmb
  obtain ⟨hfa, hva⟩ := hma
  obtain ⟨hfb, hvb⟩ := hmb
  refine tableRow_eq_of_overlap a ha b hb (hfa.trans hfb.symm) ?_
  rw [← hva, ← hvb, BitVec.and_assoc, BitVec.and_assoc, BitVec.and_comm a.mask]

/-- Settles O3: the instruction's own row matches its word, no other row does, and no other row has
its mnemonic. -/
theorem wordMatchesExactlyItsRow : Obligations.WordMatchesExactlyItsRow := by
  intro i h row hrow
  obtain ⟨own, hown, hmnemonic, hmatch⟩ := rowMatch i h
  constructor
  · intro hm
    rw [tableRow_eq_of_rowMatches hrow hown hm hmatch, hmnemonic]
  · intro hm
    rwa [tableRow_eq_of_mnemonic row hrow own hown (hm.trans hmnemonic.symm)]

/-! ### The frames of the reserved jobs -/

theorem exists_keepsFirst (n : Nat) (body : Payload) : ∃ P : Payload, keepsFirst n body P :=
  ⟨Vector.ofFn fun k => if k.val < n then body[k] else 0#8, fun k => by simp⟩

/-- `DEC_PAYLOAD` of a frame built from its parts (R132). -/
theorem decodedPayload_headerFrame (j : BitVec 3) {L : BitVec 5} {body P : Payload}
    (hP : keepsFirst L.toNat body P) : decodedPayload (headerFrame j L body) = P := by
  ext i hi : 1
  rw [decodedPayload_getElem, headerLen_headerFrame, headerFrame_succ]
  exact (hP ⟨i, hi⟩).symm

/-- FRM.DEC of a frame whose job_id is no command's (R79, R133). -/
theorem decodeInto_headerFrame_of_no_command (s : State) {j : BitVec 3} {L : BitVec 5}
    {body P : Payload} (hP : keepsFirst L.toNat body P)
    (hj : ∀ c : Command, s.cfg.jobCode.code c.job ≠ j) :
    decodeInto (headerFrame j L body) s = afterDecode s j L P .errJob 0#32 0#16 0#8 0#8 0#8 := by
  rw [decodeInto_of_errJob s _ (by simpa using hj)]
  simp only [writeHeader, headerJob_headerFrame, headerLen_headerFrame,
    decodedPayload_headerFrame j hP]
  rfl

theorem code_command_ne (jc : JobCodes) {x : Job} (hx : ∀ c : Command, c.job ≠ x) (c : Command) :
    jc.code c.job ≠ jc.code x :=
  fun h => hx c (code_injective jc h)

/-- Settles O30: neither a reserved job nor the unassigned code is a command's. -/
theorem hdrReservedJobsReportErrJob : Obligations.HdrReservedJobsReportErrJob := by
  intro s len body
  obtain ⟨P, hP⟩ := exists_keepsFirst len.toNat body
  have hreserved (x : Job) (hx : ∀ c : Command, c.job ≠ x) :=
    decodeInto_headerFrame_of_no_command s hP (code_command_ne s.cfg.jobCode hx)
  have hunassigned := decodeInto_headerFrame_of_no_command s hP
    fun c => unassignedCode_selects_no_job s.cfg.jobCode c.job
  refine ⟨P, hP, congrArg _ (hreserved .getState ?_), congrArg _ (hreserved .getFreq ?_),
    congrArg _ (hreserved .getDuty ?_), congrArg _ hunassigned⟩ <;>
    · intro c
      cases c <;> decide

/-! ### The pseudo-instructions -/

theorem valLittle_append_zeros (bs : List Byte) (k : Nat) :
    valLittle (bs ++ List.replicate k 0#8) = valLittle bs := by
  induction bs with
  | nil => exact Registers.valLittle_replicate_zero k
  | cons b bs ih => simp only [List.cons_append, valLittle, ih]

/-- Bytes not listed are 0x00 in the packed operand (R83). -/
theorem unpackBytes_packBytes_of_length_le {n : Nat} (bs : List Byte) (h : bs.length ≤ n) :
    (unpackBytes n (packBytes (8 * n) bs)).toList =
      bs ++ List.replicate (n - bs.length) 0#8 := by
  have hlen : (bs ++ List.replicate (n - bs.length) 0#8).toArray.size = n := by simp; omega
  have hpack : packBytes (8 * n) (bs ++ List.replicate (n - bs.length) 0#8) =
      packBytes (8 * n) bs := by
    rw [packBytes, valLittle_append_zeros, packBytes]
  have hroundTrip := congrArg Vector.toList (unpackBytes_packBytes ⟨_, hlen⟩)
  simpa [Vector.toList, hpack] using hroundTrip

theorem unsignedField_of_lt {w n : Nat} (h : n < 2 ^ w) :
    unsignedField w n = .ok (BitVec.ofNat w n) := if_pos h

theorem unsignedField_toNat {w : Nat} (v : BitVec w) : unsignedField w v.toNat = .ok v := by
  rw [unsignedField_of_lt v.isLt, BitVec.ofNat_toNat, BitVec.setWidth_eq]

theorem bytesOperand_map_toNat {n : Nat} (bs : List Byte) (h : bs.length ≤ n) :
    bytesOperand n (bs.map BitVec.toNat) = .ok (packBytes (8 * n) bs) := by
  have hbytes : (bs.map BitVec.toNat).all (· < 256) = true := by
    simpa using fun b _ => b.isLt
  have hback : (bs.map BitVec.toNat).map (BitVec.ofNat 8) = bs := by
    simp [Function.comp_def]
  rw [bytesOperand, if_neg (by simpa using h), if_pos hbytes, hback]

/-- A frm.enc line of bytes is the FRM.ENC of them, followed by zeros (R83). -/
theorem assemble_frmEnc_decodes {jc : JobCodes} {ref : JobRef} {job : BitVec 3} (len : Nat)
    (bs : List Byte) (hjob : jobOperand jc ref = .ok job) (hlen : len < 64)
    (hbs : bs.length ≤ 31) :
    ∃ r : Request, assemble jc (.frmEnc ref len (bs.map BitVec.toNat)) = .ok r ∧
      decode jc (.request r) =
        .frmEnc job (BitVec.ofNat 6 len) (unpackBytes 31 (packBytes 248 bs)) := by
  refine ⟨{ op := 0, job := job, len := BitVec.ofNat 6 len, payload := packBytes 248 bs },
    ?_, rfl⟩
  rw [assemble, hjob, unsignedField_of_lt hlen, bytesOperand_map_toNat bs hbs]
  rfl

theorem assemble_cmdSetDuty_zero_decodes (jc : JobCodes) (pin channel : Byte) :
    ∃ r : Request, assemble jc (.cmdSetDuty 0 pin.toNat channel.toNat) = .ok r ∧
      decode jc (.request r) = .cmdSetDuty 0 pin channel := by
  refine ⟨{ op := 2, duty := 0, pin := pin, channel := channel }, ?_, rfl⟩
  rw [assemble, unsignedField_toNat, unsignedField_toNat]
  rfl

/-- Settles O50: each expansion is a frm.enc line of its bytes, and cmd.stop a cmd.set_duty line. -/
theorem pseudoInstructionsExpand : Obligations.PseudoInstructionsExpand := by
  intro jc
  refine ⟨?_, fun pin channel => assemble_cmdSetDuty_zero_decodes jc pin channel, ?_⟩
  · intro b0 b1
    have hget (x : Job) := assemble_frmEnc_decodes (jc := jc) (ref := .name x) 2 [b0, b1] rfl
      (by decide) (by simp)
    obtain ⟨rs, hrs, hds⟩ := hget .getState
    obtain ⟨rf, hrf, hdf⟩ := hget .getFreq
    obtain ⟨rd, hrd, hdd⟩ := hget .getDuty
    exact ⟨rs, rf, rd, _, hrs, hrf, hrd, hds, hdf, hdd,
      unpackBytes_packBytes_of_length_le [b0, b1] (by simp)⟩
  · intro job bs hbs
    obtain ⟨r, hr, hd⟩ := assemble_frmEnc_decodes (jc := jc) (ref := .code job.toNat)
      bs.length bs (unsignedField_toNat job) (by omega) hbs
    refine ⟨r, _, ?_, hd, unpackBytes_packBytes_of_length_le bs hbs⟩
    rwa [expandPseudo, List.length_map]

end Sys2Proof.Proofs.Encoding
end

section
/-! PROOFS. The statements of spec/40_frame_encode.md: what FRM.ENC emits and refuses (R100 to R103) and
the payload bytes it ignores (R104). -/

namespace Sys2Proof.Proofs.FrameEncode

open Sys2Proof.Machine Sys2Proof.Certificates Sys2Proof.Proofs.Registers

/-! ### The two outcomes of an encode operation, as the statements write them -/

theorem succeedEncode_eq_afterEmit (F : Frame) (c : Settle) (s : State) :
    succeedEncode F c s = afterEmit s F c := rfl

theorem failEncode_eq_afterRefusal (st : Status) (s : State) :
    failEncode st s = afterRefusal s st := rfl

/-! ### FRM.ENC -/

/-- The frame FRM.ENC builds from its operands (R100, R101). -/
def frmEncFrame (job : BitVec 3) (len : BitVec 6) (payload : Payload) : Frame :=
  mkFrame job (len.extractLsb' 0 5) payload.toList

theorem exec_frmEnc_of_len_le (job : BitVec 3) {len : BitVec 6} (payload : Payload) (s : State)
    (h : len.toNat ≤ 31) :
    exec (.frmEnc job len payload) s =
      .next (afterEmit s (frmEncFrame job len payload) (settleClass s.cfg.jobCode job)) := by
  simp only [exec, execFrmEnc, if_neg (Nat.not_lt.2 h), succeedEncode_eq_afterEmit, frmEncFrame]

theorem exec_frmEnc_of_lt_len (job : BitVec 3) {len : BitVec 6} (payload : Payload) (s : State)
    (h : 31 < len.toNat) :
    exec (.frmEnc job len payload) s = .next (afterRefusal s .errLen) := by
  simp only [exec, execFrmEnc, if_pos h, failEncode_eq_afterRefusal]

theorem frmEncFrame_zero (job : BitVec 3) (len : BitVec 6) (payload : Payload) :
    (frmEncFrame job len payload)[0] = job ++ len.extractLsb' 0 5 :=
  mkFrame_zero job _ _

/-- Payload byte i is byte i + 1 of the frame when i is below `len`, which the header's five bits still
hold; the other bytes are zero (R100, R101). -/
theorem frmEncFrame_succ (job : BitVec 3) {len : BitVec 6} (payload : Payload) (h : len.toNat ≤ 31)
    (i : Nat) (hi : i < 31) :
    (frmEncFrame job len payload)[i + 1] = if i < len.toNat then payload[i] else 0#8 := by
  have hlen : (len.extractLsb' 0 5).toNat = len.toNat := toNat_lenField (Nat.not_lt.2 h)
  have hbyte : payload.toList.getD i 0#8 = payload[i] := by simp [hi]
  rw [frmEncFrame, mkFrame_succ, hlen, hbyte]

/-- Settles O17: the frame byte by byte when `len` fits, the refusal when it does not. -/
theorem frmEncOutcome : Obligations.FrmEncOutcome := by
  intro s job len payload
  constructor
  · intro hle
    exact ⟨frmEncFrame job len payload, frmEncFrame_zero job len payload,
      fun k => frmEncFrame_succ job payload hle k k.isLt, exec_frmEnc_of_len_le job payload s hle⟩
  · exact exec_frmEnc_of_lt_len job payload s

/-- Payloads that agree below `len` give one frame (R104). -/
theorem frmEncFrame_congr (job : BitVec 3) {len : BitVec 6} {p q : Payload} (h : len.toNat ≤ 31)
    (hpq : ∀ k : Fin 31, k.val < len.toNat → p[k] = q[k]) :
    frmEncFrame job len p = frmEncFrame job len q := by
  ext i hi : 1
  cases i with
  | zero => rw [frmEncFrame_zero, frmEncFrame_zero]
  | succ i =>
    have hi31 : i < 31 := Nat.lt_of_succ_lt_succ hi
    rw [frmEncFrame_succ job p h i hi31, frmEncFrame_succ job q h i hi31]
    split
    · next hlt => exact hpq ⟨i, hi31⟩ hlt
    · rfl

/-- Settles O18: a refusal does not read the payload, and an accepted `len` gives one frame. -/
theorem frmEncIgnoresBytesPastLen : Obligations.FrmEncIgnoresBytesPastLen := by
  intro s job len p q hpq
  obtain hlt | hle := Nat.lt_or_ge 31 len.toNat
  · rw [exec_frmEnc_of_lt_len job p s hlt, exec_frmEnc_of_lt_len job q s hlt]
  · rw [exec_frmEnc_of_len_le job p s hle, exec_frmEnc_of_len_le job q s hle,
      frmEncFrame_congr job hle hpq]

end Sys2Proof.Proofs.FrameEncode
end

section
/-! PROOFS. The statements of spec/41_commands.md: the frames the four command operations emit, byte by
byte, and the duties INIT_PWM and SET_DUTY refuse (R110 to R119). -/

namespace Sys2Proof.Proofs.Commands

open Sys2Proof.Machine Sys2Proof.Certificates Sys2Proof.Proofs.Scope Sys2Proof.Proofs.FrameEncode

/-! ### A built frame as one list of bytes -/

/-- A payload of exactly `L` bytes is framed whole: the header, its bytes, then zeros (R28, R101). -/
theorem mkFrame_toList (j : BitVec 3) (L : BitVec 5) (p : List Byte) (h : p.length = L.toNat) :
    (mkFrame j L p).toList = framed (j ++ L) p := by
  have hL : L.toNat < 32 := L.isLt
  refine List.ext_getElem ?_ fun i hi _ => ?_
  · simp only [framed, Vector.length_toList, List.length_append, List.length_cons,
      List.length_replicate]
    omega
  · rw [Vector.getElem_toList]
    cases i with
    | zero => exact mkFrame_zero j L p
    | succ i =>
      rw [mkFrame_succ j L p i (by simpa using hi), ← h]
      simp only [framed, List.cons_append, List.getElem_cons_succ, List.getElem_append,
        List.getElem_replicate]
      split
      · next hlt => exact List.getD_eq_getElem p 0#8 hlt
      · rfl

/-- The frame of an operation without operands (R117, R119). -/
theorem mkFrame_nil_toList (j : BitVec 3) :
    (mkFrame j 0#5 []).toList = (j ++ 0#5) :: List.replicate 31 0#8 :=
  mkFrame_toList j 0#5 [] rfl

theorem bytesE_two (e : Endian) (v : BitVec 16) : bytesE e 2 v = bytes16 e v := by
  cases e <;> rfl

theorem bytesE_four (e : Endian) (v : BitVec 32) : bytesE e 4 v = bytes32 e v := by
  cases e <;> rfl

/-! ### CMD.INIT_PWM -/

/-- The frame CMD.INIT_PWM builds for a duty it accepts (R110, R111). -/
def initPwmFrame (s : State) (freq duty : BitVec 32) (pin channel timer : Byte) : Frame :=
  mkFrame s.cfg.jobCode.initPwm (commandLen .initPwm)
    (initPwmPayload s.cfgEndian freq (dutyField duty) pin channel timer)

theorem initPwmFrame_toList (s : State) (freq duty : BitVec 32) (pin channel timer : Byte) :
    (initPwmFrame s freq duty pin channel timer).toList =
      framed (s.cfg.jobCode.initPwm ++ 9#5)
        (bytes32 s.cfgEndian freq ++ bytes16 s.cfgEndian (duty.extractLsb' 0 16) ++
          [pin, channel, timer]) := by
  rw [← bytesE_four, ← bytesE_two]
  exact mkFrame_toList _ _ _ (by simp [initPwmPayload, bytesE_length, commandLen])

theorem exec_cmdInitPwm_of_dutyOk (freq : BitVec 32) {duty : BitVec 32} (pin channel timer : Byte)
    (s : State) (h : initPwmDutyOk duty) :
    exec (.cmdInitPwm freq duty pin channel timer) s =
      .next (afterEmit s (initPwmFrame s freq duty pin channel timer) .long) := by
  simp only [exec, execCmdInitPwm, if_pos h, succeedEncode_eq_afterEmit, initPwmFrame]

theorem exec_cmdInitPwm_of_not_dutyOk (freq : BitVec 32) {duty : BitVec 32}
    (pin channel timer : Byte) (s : State) (h : ¬ initPwmDutyOk duty) :
    exec (.cmdInitPwm freq duty pin channel timer) s = .next (afterRefusal s .errRange) := by
  simp only [exec, execCmdInitPwm, if_neg h, failEncode_eq_afterRefusal]

/-- Settles O19: the frame as a list when the duty is accepted, the refusal when it is out of range. -/
theorem initPwmOutcome : Obligations.InitPwmOutcome := by
  intro s freq duty pin channel timer
  constructor
  · intro hok
    exact ⟨initPwmFrame s freq duty pin channel timer, initPwmFrame_toList ..,
      exec_cmdInitPwm_of_dutyOk freq pin channel timer s hok⟩
  · intro hout
    have hrefused : ¬ initPwmDutyOk duty := fun ⟨hlow, hhigh⟩ => by omega
    exact exec_cmdInitPwm_of_not_dutyOk freq pin channel timer s hrefused

/-! ### CMD.SET_DUTY -/

/-- The frame CMD.SET_DUTY builds for a duty it accepts (R113, R115). -/
def setDutyFrame (s : State) (duty : BitVec 32) (pin channel : Byte) : Frame :=
  mkFrame s.cfg.jobCode.setDuty (commandLen .setDuty)
    (setDutyPayload s.cfgEndian (dutyField duty) pin channel)

theorem setDutyFrame_toList (s : State) (duty : BitVec 32) (pin channel : Byte) :
    (setDutyFrame s duty pin channel).toList =
      framed (s.cfg.jobCode.setDuty ++ 4#5)
        (bytes16 s.cfgEndian (duty.extractLsb' 0 16) ++ [pin, channel]) := by
  rw [← bytesE_two]
  exact mkFrame_toList _ _ _ (by simp [setDutyPayload, bytesE_length, commandLen])

theorem exec_cmdSetDuty_of_dutyOk {duty : BitVec 32} (pin channel : Byte) (s : State)
    (h : setDutyOk s.cfg duty) :
    exec (.cmdSetDuty duty pin channel) s =
      .next (afterEmit s (setDutyFrame s duty pin channel) .short) := by
  simp only [exec, execCmdSetDuty, if_pos h, succeedEncode_eq_afterEmit, setDutyFrame]

theorem exec_cmdSetDuty_of_not_dutyOk {duty : BitVec 32} (pin channel : Byte) (s : State)
    (h : ¬ setDutyOk s.cfg duty) :
    exec (.cmdSetDuty duty pin channel) s = .next (afterRefusal s .errRange) := by
  simp only [exec, execCmdSetDuty, if_neg h, failEncode_eq_afterRefusal]

/-- Settles O20: the frame as a list when the duty is within the limit, the refusal when it is not. -/
theorem setDutyOutcome : Obligations.SetDutyOutcome := by
  intro s duty pin channel
  constructor
  · intro hok
    exact ⟨setDutyFrame s duty pin channel, setDutyFrame_toList ..,
      exec_cmdSetDuty_of_dutyOk pin channel s hok⟩
  · intro hout
    have hrefused : ¬ setDutyOk s.cfg duty := fun ⟨hlow, hhigh⟩ => by omega
    exact exec_cmdSetDuty_of_not_dutyOk pin channel s hrefused

/-! ### The value SET_DUTY carries -/

/-- `DUTY_LIMIT` is at most 65535, so a duty within it fits in the 16-bit field (R78, R114). -/
theorem initPwmDutyOk_of_setDutyOk {cfg : Params} {duty : BitVec 32} (h : setDutyOk cfg duty) :
    initPwmDutyOk duty := by
  obtain ⟨hlow, hhigh⟩ := h
  have hlimit : cfg.dutyLimit.val < 65536 := cfg.dutyLimit.isLt
  exact ⟨hlow, by omega⟩

/-- A duty that fits in 16 bits keeps its value in the field (R78). -/
theorem dutyField_toNat {duty : BitVec 32} (h : initPwmDutyOk duty) :
    ((dutyField duty).toNat : Int) = duty.toInt := by
  obtain ⟨hlow, hhigh⟩ := h
  simp only [dutyField, BitVec.extractLsb'_toNat, Nat.shiftRight_zero]
  simp only [BitVec.toInt_eq_toNat_cond] at hlow hhigh ⊢
  split at hlow <;> omega

/-- The duty bytes of a built SET_DUTY frame read back as the field, in the order they were written
(R115, R137). -/
theorem setDutyValue_mkFrame (e : Endian) (j : BitVec 3) (duty : BitVec 16) (pin channel : Byte) :
    setDutyValue e (mkFrame j (commandLen .setDuty) (setDutyPayload e duty pin channel)) =
      duty.toNat := by
  have hbytes : setDutyValue e (mkFrame j (commandLen .setDuty)
      (setDutyPayload e duty pin channel)) = valE e (bytesE e 2 duty) := by
    simp [setDutyValue, commandLen, mkFrame_getElem, setDutyPayload, bytesE, List.range_succ]
  rw [hbytes, valE_bytesE]
  exact Nat.mod_eq_of_lt duty.isLt

/-- A SET_DUTY frame reads back as the duty it was built from (R116). -/
theorem setDutyValue_setDutyFrame (s : State) {duty : BitVec 32} (pin channel : Byte)
    (h : setDutyOk s.cfg duty) :
    (setDutyValue s.cfgEndian (setDutyFrame s duty pin channel) : Int) = duty.toInt := by
  rw [setDutyFrame, setDutyValue_mkFrame, dutyField_toNat (initPwmDutyOk_of_setDutyOk h)]

theorem setDutyValue_little (F : Frame) :
    setDutyValue .little F = F[1].toNat + 256 * F[2].toNat := by
  simp [setDutyValue, valE, valLittle]

theorem setDutyValue_big (F : Frame) :
    setDutyValue .big F = 256 * F[1].toNat + F[2].toNat := by
  simp [setDutyValue, valE, valLittle, Nat.add_comm]

/-- Settles O21: the operand holds v itself, so the check is on v and the frame reads back as v. -/
theorem setDutyBytesEqualItsValue : Obligations.SetDutyBytesEqualItsValue := by
  intro s v pin channel hlimit
  have hbound : (s.cfg.dutyLimit.val : Int) = 4096 := by rw [hlimit]; rfl
  constructor
  · rintro ⟨hlow, hhigh⟩
    have hv : (BitVec.ofInt 32 v).toInt = v :=
      BitVec.toInt_ofInt_eq_self (by decide) (by omega) (by omega)
    have hok : setDutyOk s.cfg (BitVec.ofInt 32 v) := by rw [setDutyOk, hv]; omega
    have hval := (setDutyValue_setDutyFrame s pin channel hok).trans hv
    refine ⟨_, exec_cmdSetDuty_of_dutyOk pin channel s hok, rfl, rfl, ?_⟩
    split
    · next he =>
      rw [he, setDutyValue_little] at hval
      exact_mod_cast hval
    · next he =>
      rw [he, setDutyValue_big] at hval
      exact_mod_cast hval
  · rintro ⟨hmin, hmax, hout⟩
    have hv : (BitVec.ofInt 32 v).toInt = v := BitVec.toInt_ofInt_eq_self (by decide) hmin hmax
    have hrefused : ¬ setDutyOk s.cfg (BitVec.ofInt 32 v) := by rw [setDutyOk, hv]; omega
    exact ⟨_, exec_cmdSetDuty_of_not_dutyOk pin channel s hrefused, rfl, rfl, rfl⟩

/-! ### CMD.RESTART and CMD.LED_TOGGLE -/

theorem exec_cmdRestart (s : State) :
    exec .cmdRestart s =
      .next (afterEmit s (mkFrame s.cfg.jobCode.restart 0#5 []) .short) := rfl

theorem exec_cmdLedToggle (s : State) :
    exec .cmdLedToggle s =
      .next (afterEmit s (mkFrame s.cfg.jobCode.ledToggle 0#5 []) .short) := rfl

/-- Settles O22: the frame has no payload, and no check stands before it. -/
theorem restartOutcome : Obligations.RestartOutcome := fun s =>
  ⟨_, mkFrame_nil_toList s.cfg.jobCode.restart, exec_cmdRestart s⟩

/-- Settles O23: the frame has no payload, and no check stands before it. -/
theorem ledToggleOutcome : Obligations.LedToggleOutcome := fun s =>
  ⟨_, mkFrame_nil_toList s.cfg.jobCode.ledToggle, exec_cmdLedToggle s⟩

end Sys2Proof.Proofs.Commands
end

section
/-! PROOFS. The statements of spec/42_decode.md: what FRM.DEC writes and reports (R130 to R139), the
bare frames of the header rows, and encoding and decoding together (R140, R141). -/

namespace Sys2Proof.Proofs.Decode

open Sys2Proof.Machine Sys2Proof.Certificates Sys2Proof.Proofs.Scope Sys2Proof.Proofs.Registers
  Sys2Proof.Proofs.Port Sys2Proof.Proofs.Encoding Sys2Proof.Proofs.FrameEncode
  Sys2Proof.Proofs.Commands

/-! ### Two-byte and four-byte fields -/

theorem ofNat_valE_two (e : Endian) (b0 b1 : Byte) :
    BitVec.ofNat 16 (valE e [b0, b1]) = word16 e b0 b1 := by
  cases e with
  | little => exact word16_ofNat_valLittle b0 b1
  | big => exact word16_ofNat_valLittle b1 b0

theorem ofNat_valE_four (e : Endian) (b0 b1 b2 b3 : Byte) :
    BitVec.ofNat 32 (valE e [b0, b1, b2, b3]) = word32 e b0 b1 b2 b3 := by
  cases e with
  | little => exact word32_ofNat_valLittle b0 b1 b2 b3
  | big => exact word32_ofNat_valLittle b3 b2 b1 b0

theorem valE_two_lt (e : Endian) (b0 b1 : Byte) : valE e [b0, b1] < 65536 := by
  cases e with
  | little => exact valLittle_two_lt b0 b1
  | big => exact valLittle_two_lt b1 b0

/-- The duty of a SET_DUTY frame is the 16-bit field in its bytes 1 and 2 (R136). -/
theorem setDutyValue_eq (e : Endian) (F : Frame) :
    setDutyValue e F = (word16 e F[1] F[2]).toNat := by
  rw [← ofNat_valE_two, BitVec.toNat_ofNat, setDutyValue]
  exact (Nat.mod_eq_of_lt (valE_two_lt e F[1] F[2])).symm

/-- The last byte of a bit field is its lowest; the width is given, so that `simp` can match a field
written with a literal width. -/
theorem extractLsb'_append_byte_low (w : Nat) (x : BitVec w) (b : Byte) :
    (x ++ b).extractLsb' 0 8 = b :=
  BitVec.extractLsb'_append_eq_right

/-- The bytes above the last one of a bit field. -/
theorem extractLsb'_append_byte_high (w : Nat) (x : BitVec w) (b : Byte) {k : Nat} (h : 8 ≤ k) :
    (x ++ b).extractLsb' k 8 = x.extractLsb' (k - 8) 8 :=
  BitVec.extractLsb'_append_eq_of_le h

/-- A field read from two bytes is written as those bytes, in the same order (R11, R50). -/
theorem bytes16_word16 (e : Endian) (b0 b1 : Byte) : bytes16 e (word16 e b0 b1) = [b0, b1] := by
  cases e <;>
    simp [bytes16, word16, extractLsb'_append_byte_low 8, extractLsb'_append_byte_high 8]

/-- A field read from four bytes is written as those bytes, in the same order (R11, R50). -/
theorem bytes32_word32 (e : Endian) (b0 b1 b2 b3 : Byte) :
    bytes32 e (word32 e b0 b1 b2 b3) = [b0, b1, b2, b3] := by
  cases e <;>
    simp [bytes32, word32, extractLsb'_append_byte_low 8, extractLsb'_append_byte_low 16,
      extractLsb'_append_byte_low 24, extractLsb'_append_byte_high 8,
      extractLsb'_append_byte_high 16, extractLsb'_append_byte_high 24]

/-- A 16-bit field written and read in one order (R50). -/
theorem ofNat_valE_bytesE_two (e : Endian) (v : BitVec 16) :
    BitVec.ofNat 16 (valE e (bytesE e 2 v)) = v := by
  rw [fieldReadsBackInItsByteOrder e 2 v, BitVec.ofNat_toNat, BitVec.setWidth_eq]

/-- A 32-bit field written and read in one order (R50). -/
theorem ofNat_valE_bytesE_four (e : Endian) (v : BitVec 32) :
    BitVec.ofNat 32 (valE e (bytesE e 4 v)) = v := by
  rw [fieldReadsBackInItsByteOrder e 4 v, BitVec.ofNat_toNat, BitVec.setWidth_eq]

/-! ### The fields of a command's frame -/

theorem commandFields_initPwm (e : Endian) (F : Frame) :
    commandFields e .initPwm F =
      { freq := word32 e F[1] F[2] F[3] F[4], duty := word16 e F[5] F[6]
        pin := F[7], channel := F[8], timer := F[9] } := by
  rw [← ofNat_valE_four, ← ofNat_valE_two]
  rfl

theorem commandFields_setDuty (e : Endian) (F : Frame) :
    commandFields e .setDuty F = { duty := word16 e F[1] F[2], pin := F[3], channel := F[4] } := by
  rw [← ofNat_valE_two]
  rfl

/-- No two commands share a code (R8). -/
theorem command_eq_of_code_eq (jc : JobCodes) {c d : Command}
    (h : jc.code c.job = jc.code d.job) : c = d := by
  have hjob := code_injective jc h
  cases c <;> cases d <;> simp_all [Command.job]

/-! ### FRM.DEC as a whole -/

theorem exec_frmDec (F : Frame) (s : State) : exec (.frmDec F) s = .next (decodeInto F s) := rfl

/-- A decode that ended OK passed its checks with a command, and holds that command's fields (R137,
R138). -/
theorem decodeInto_of_status_ok {F : Frame} {s : State} (h : (decodeInto F s).status = .ok) :
    ∃ c, decodeCheck s.cfg s.cfgEndian F = .ok c ∧
      decodeInto F s =
        fail .ok (writeFields (commandFields s.cfgEndian c F) (writeHeader F s)) := by
  obtain hok | ⟨st, hst, -, -, -, he⟩ := decodeInto_cases F s
  · exact hok
  · rw [he] at h
    exact absurd h hst

/-- The header and the payload are written whatever the checks answer (R131, R132). -/
theorem decodeInto_header (F : Frame) (s : State) :
    (decodeInto F s).decJob = headerJob F ∧ (decodeInto F s).decLen = headerLen F ∧
      (decodeInto F s).decPayload = decodedPayload F := by
  obtain ⟨c, -, he⟩ | ⟨st, -, -, -, -, he⟩ := decodeInto_cases F s
  · simp [he]
  · simp [he]

/-- Settles O24: the header and the payload are written before any check, the rest is kept. -/
theorem frmDecWritesHeaderAndPayload : Obligations.FrmDecWritesHeaderAndPayload := by
  intro s F
  obtain ⟨hjob, hlen, hpayload⟩ := decodeInto_header F s
  refine ⟨_, exec_frmDec F s, hjob, hlen, fun k => ?_, decodeInto_sameTransmit F s,
    decodeInto_sameInputs F s⟩
  rw [hpayload]
  exact decodedPayload_getElem F k k.isLt

/-! ### The first failing check -/

theorem mem_commandCodes_iff (jc : JobCodes) (j : BitVec 3) :
    j ∈ [jc.initPwm, jc.setDuty, jc.restart, jc.ledToggle] ↔
      ∃ c : Command, jc.code c.job = j := by
  constructor
  · intro h
    simp only [List.mem_cons, List.not_mem_nil, or_false] at h
    obtain rfl | rfl | rfl | rfl := h
    · exact ⟨.initPwm, rfl⟩
    · exact ⟨.setDuty, rfl⟩
    · exact ⟨.restart, rfl⟩
    · exact ⟨.ledToggle, rfl⟩
  · rintro ⟨c, rfl⟩
    cases c <;> simp [JobCodes.code, Command.job]

/-- A frame's length fits when it is the `LEN` of the command its job_id selects (R134). -/
theorem lengthFits_iff (jc : JobCodes) (F : Frame) :
    lengthFits jc F ↔
      ∃ c : Command, jc.code c.job = headerJob F ∧ headerLen F = commandLen c := by
  constructor
  · rintro (⟨hj, hlen⟩ | ⟨hj, hlen⟩ | ⟨hj, hlen⟩ | ⟨hj, hlen⟩)
    · exact ⟨.initPwm, hj.symm, hlen⟩
    · exact ⟨.setDuty, hj.symm, hlen⟩
    · exact ⟨.restart, hj.symm, hlen⟩
    · exact ⟨.ledToggle, hj.symm, hlen⟩
  · rintro ⟨c, hj, hlen⟩
    cases c with
    | initPwm => exact .inl ⟨hj.symm, hlen⟩
    | setDuty => exact .inr (.inl ⟨hj.symm, hlen⟩)
    | restart => exact .inr (.inr (.inl ⟨hj.symm, hlen⟩))
    | ledToggle => exact .inr (.inr (.inr ⟨hj.symm, hlen⟩))

/-- Settles O25, one check after the other; the range check is SET_DUTY's alone. -/
theorem frmDecReportsFirstFailure : Obligations.FrmDecReportsFirstFailure := by
  intro s F
  refine ⟨_, exec_frmDec F s, ?_, ?_, ?_, ?_⟩
  · intro hjob
    rw [decodeInto_of_errJob s F (not_exists.1 ((mem_commandCodes_iff ..).not.1 hjob)), fail_status]
  · intro hjob hfits
    obtain ⟨c, hj⟩ := (mem_commandCodes_iff ..).1 hjob
    have hlen : headerLen F ≠ commandLen c := fun hlen =>
      hfits ((lengthFits_iff ..).2 ⟨c, hj, hlen⟩)
    rw [decodeInto_of_errLen s F c hj hlen, fail_status]
  · rintro hfits ⟨k, hk, hne⟩
    obtain ⟨c, hj, hlen⟩ := (lengthFits_iff ..).1 hfits
    rw [decodeInto_of_errPad s F c hj hlen fun hpad => hne (hpad k hk), fail_status]
  · intro hfits hpad
    obtain ⟨c, hj, hlen⟩ := (lengthFits_iff ..).1 hfits
    rw [← setDutyValue_eq]
    split
    · next hover =>
      obtain ⟨hset, hlt⟩ := hover
      obtain rfl : c = .setDuty := command_eq_of_code_eq s.cfg.jobCode (hj.trans hset)
      rw [decodeInto_of_errRange s F hj hlen hpad hlt, fail_status]
    · next hin =>
      have hrange : c = .setDuty → setDutyValue s.cfgEndian F ≤ s.cfg.dutyLimit.val := by
        rintro rfl
        exact not_lt.1 fun hlt => hin ⟨hj.symm, hlt⟩
      rw [decodeInto_of_ok s F c hj hlen hpad hrange, fail_status]

/-- Settles O26: the fields of the one command the job_id selects, or the cleared fields. -/
theorem frmDecExtractsCommandFields : Obligations.FrmDecExtractsCommandFields := by
  intro s F
  refine ⟨_, exec_frmDec F s, ?_⟩
  obtain ⟨c, hok, he⟩ | ⟨st, hst, -, -, -, he⟩ := decodeInto_cases F s
  · obtain ⟨hj, -⟩ := (decodeCheck_eq_ok_iff ..).1 hok
    have hcommand (d : Command) (hd : headerJob F = s.cfg.jobCode.code d.job) : c = d :=
      command_eq_of_code_eq s.cfg.jobCode (hj.trans hd)
    rw [he]
    refine ⟨fun hne => absurd rfl hne, fun _ hd => ?_, fun _ hd => ?_, fun _ hd => ?_⟩
    · obtain rfl := hcommand .initPwm hd
      simp [commandFields_initPwm]
    · obtain rfl := hcommand .setDuty hd
      simp [commandFields_setDuty]
    · obtain rfl | rfl := hd.imp (hcommand .restart) (hcommand .ledToggle)
      · exact ⟨rfl, rfl, rfl, rfl, rfl⟩
      · exact ⟨rfl, rfl, rfl, rfl, rfl⟩
  · rw [he]
    exact ⟨fun _ => ⟨rfl, rfl, rfl, rfl, rfl⟩, fun h => absurd h hst, fun h => absurd h hst,
      fun h => absurd h hst⟩

/-! ### Bare frames -/

/-- Settles O7: 32 bytes are a frame, any other number is none. -/
theorem onlyWholeFramesDecode : Obligations.OnlyWholeFramesDecode := by
  intro jc bs
  refine ⟨fun hne => dif_neg hne, fun h32 => ?_⟩
  exact ⟨⟨bs.toArray, by simpa using h32⟩, rfl, dif_pos h32⟩

/-- A header row is FRM.DEC of its frame, whatever its job (log entry 4). -/
theorem exec_headerRow (x : Option Job) (L : BitVec 5) (body : Payload) (s : State) :
    exec (headerRow x L body) s =
      .next (decodeInto (headerFrame (headerRowCode s.cfg.jobCode x) L body) s) := by
  obtain _ | _ | _ | _ | _ | _ | _ | _ := x <;> rfl

theorem headerRowCode_jobOf? (jc : JobCodes) (j : BitVec 3) :
    headerRowCode jc (jobOf? jc j) = j := by
  cases h : jobOf? jc j with
  | some x => exact code_of_jobOf?_eq_some h
  | none => exact ((unassignedCodeIsTheOneLeft jc j).1 ((jobOf?_eq_none_iff jc j).1 h)).symm

/-- Settles O8: the row a frame's header selects has the frame's own code, length and bytes. -/
theorem bareFrameIsFrmDecOfIt : Obligations.BareFrameIsFrmDecOfIt := by
  intro s F
  rw [decode, decodeFrame_eq]
  split
  · rw [exec_headerRow, headerRowCode_jobOf?, headerFrame_parts, exec_frmDec]
  · rfl

theorem keepsFirst_self {n : Nat} {body : Payload} (h : ∀ k : Fin 31, n ≤ k.val → body[k] = 0#8) :
    keepsFirst n body body := by
  intro k
  split
  · rfl
  · next hge => exact h k (Nat.not_lt.1 hge)

/-- What a decode of a frame built from its parts leaves, as the statements write it. -/
theorem fail_writeFields_headerFrame (s : State) (st : Status) (f : CommandFields) (j : BitVec 3)
    {L : BitVec 5} {body P : Payload} (hP : keepsFirst L.toNat body P) :
    fail st (writeFields f (writeHeader (headerFrame j L body) s)) =
      afterDecode s j L P st f.freq f.duty f.pin f.channel f.timer := by
  simp only [writeHeader, headerJob_headerFrame, headerLen_headerFrame,
    decodedPayload_headerFrame j hP]
  rfl

/-- The frame of a command's header row (R72, R73). -/
def commandHeaderFrame (s : State) (c : Command) (body : Payload) : Frame :=
  headerFrame (s.cfg.jobCode.code c.job) (commandLen c) body

/-- A command's bare frame with zero padding, and with a duty in range for SET_DUTY, is accepted. -/
theorem decodeInto_commandHeaderFrame_of_ok (s : State) (c : Command) {body : Payload}
    (hpad : ∀ k : Fin 31, (commandLen c).toNat ≤ k.val → body[k] = 0#8)
    (hrange : c = .setDuty →
      setDutyValue s.cfgEndian (commandHeaderFrame s c body) ≤ s.cfg.dutyLimit.val)
    {f : CommandFields} (hf : commandFields s.cfgEndian c (commandHeaderFrame s c body) = f) :
    decodeInto (commandHeaderFrame s c body) s =
      afterDecode s (s.cfg.jobCode.code c.job) (commandLen c) body .ok f.freq f.duty f.pin f.channel
        f.timer := by
  rw [decodeInto_of_ok s (commandHeaderFrame s c body) c (headerJob_headerFrame ..).symm
    (headerLen_headerFrame ..) ((paddingZero_headerFrame_iff ..).2 hpad) hrange, hf]
  exact fail_writeFields_headerFrame s .ok f _ (keepsFirst_self hpad)

/-- A command's bare frame with a nonzero padding byte is reported (R135). -/
theorem decodeInto_commandHeaderFrame_of_errPad (s : State) (c : Command) {body P : Payload}
    (hP : keepsFirst (commandLen c).toNat body P)
    (hpad : ∃ k : Fin 31, (commandLen c).toNat ≤ k.val ∧ body[k] ≠ 0#8) :
    decodeInto (commandHeaderFrame s c body) s =
      afterDecode s (s.cfg.jobCode.code c.job) (commandLen c) P .errPad 0#32 0#16 0#8 0#8 0#8 := by
  obtain ⟨k, hk, hne⟩ := hpad
  rw [decodeInto_of_errPad s (commandHeaderFrame s c body) c (headerJob_headerFrame ..).symm
    (headerLen_headerFrame ..) fun hzero => hne ((paddingZero_headerFrame_iff ..).1 hzero k hk)]
  exact fail_writeFields_headerFrame s .errPad {} _ hP

theorem commandFields_initPwm_commandHeaderFrame (s : State) (e : Endian) (body : Payload) :
    commandFields e .initPwm (commandHeaderFrame s .initPwm body) =
      { freq := word32 e body[0] body[1] body[2] body[3], duty := word16 e body[4] body[5]
        pin := body[6], channel := body[7], timer := body[8] } := by
  simp [commandFields_initPwm, commandHeaderFrame]

theorem commandFields_setDuty_commandHeaderFrame (s : State) (e : Endian) (body : Payload) :
    commandFields e .setDuty (commandHeaderFrame s .setDuty body) =
      { duty := word16 e body[0] body[1], pin := body[2], channel := body[3] } := by
  simp [commandFields_setDuty, commandHeaderFrame]

theorem setDutyValue_commandHeaderFrame (s : State) (c : Command) (e : Endian) (body : Payload) :
    setDutyValue e (commandHeaderFrame s c body) = (word16 e body[0] body[1]).toNat := by
  simp [setDutyValue_eq, commandHeaderFrame]

/-- Settles O27: INIT_PWM has no range check, so the padding alone tells the two outcomes apart. -/
theorem hdrInitPwmOutcome : Obligations.HdrInitPwmOutcome := by
  intro s body
  constructor
  · intro hpad
    exact congrArg _ (decodeInto_commandHeaderFrame_of_ok s .initPwm hpad nofun
      (commandFields_initPwm_commandHeaderFrame s s.cfgEndian body))
  · intro hpad
    obtain ⟨P, hP⟩ := exists_keepsFirst 9 body
    exact ⟨P, hP, congrArg _ (decodeInto_commandHeaderFrame_of_errPad s .initPwm hP hpad)⟩

/-- A bare SET_DUTY frame with a duty over the limit is reported (R136). -/
theorem decodeInto_commandHeaderFrame_of_errRange (s : State) {body : Payload}
    (hpad : ∀ k : Fin 31, 4 ≤ k.val → body[k] = 0#8)
    (hover : s.cfg.dutyLimit.val < (word16 s.cfgEndian body[0] body[1]).toNat) :
    decodeInto (commandHeaderFrame s .setDuty body) s =
      afterDecode s s.cfg.jobCode.setDuty 4#5 body .errRange 0#32 0#16 0#8 0#8 0#8 := by
  rw [← setDutyValue_commandHeaderFrame s .setDuty] at hover
  rw [decodeInto_of_errRange s (commandHeaderFrame s .setDuty body) (headerJob_headerFrame ..).symm
    (headerLen_headerFrame ..) ((paddingZero_headerFrame_iff ..).2 hpad) hover]
  exact fail_writeFields_headerFrame s .errRange {} _ (keepsFirst_self hpad)

/-- Settles O28, by the padding and then the duty. -/
theorem hdrSetDutyOutcome : Obligations.HdrSetDutyOutcome := by
  intro s body
  refine ⟨?_, ?_, ?_⟩
  · intro hpad hin
    rw [← setDutyValue_commandHeaderFrame s .setDuty] at hin
    exact congrArg _ (decodeInto_commandHeaderFrame_of_ok s .setDuty hpad (fun _ => hin)
      (commandFields_setDuty_commandHeaderFrame s s.cfgEndian body))
  · intro hpad hover
    exact congrArg _ (decodeInto_commandHeaderFrame_of_errRange s hpad hover)
  · intro hpad
    obtain ⟨P, hP⟩ := exists_keepsFirst 4 body
    exact ⟨P, hP, congrArg _ (decodeInto_commandHeaderFrame_of_errPad s .setDuty hP hpad)⟩

theorem keepsFirst_zero (body : Payload) : keepsFirst 0 body (Vector.replicate 31 0#8) := by
  intro k
  simp

theorem exists_ne_zero_of_ne_replicate {body : Payload} (h : body ≠ Vector.replicate 31 0#8) :
    ∃ k : Fin 31, 0 ≤ k.val ∧ body[k] ≠ 0#8 := by
  by_contra hall
  push Not at hall
  refine h (Vector.ext fun i hi => ?_)
  rw [Vector.getElem_replicate]
  exact hall ⟨i, hi⟩ (Nat.zero_le i)

/-- Settles O29: the padding of a frame without payload is its whole body. -/
theorem hdrZeroPayloadOutcome : Obligations.HdrZeroPayloadOutcome := by
  intro s body
  constructor
  · rintro rfl
    have hpad : ∀ k : Fin 31, 0 ≤ k.val → (Vector.replicate 31 0#8 : Payload)[k] = 0#8 := by simp
    exact ⟨congrArg _ (decodeInto_commandHeaderFrame_of_ok s .restart hpad nofun rfl),
      congrArg _ (decodeInto_commandHeaderFrame_of_ok s .ledToggle hpad nofun rfl)⟩
  · intro hne
    have hP := keepsFirst_zero body
    have hpad := exists_ne_zero_of_ne_replicate hne
    exact ⟨congrArg _ (decodeInto_commandHeaderFrame_of_errPad s .restart hP hpad),
      congrArg _ (decodeInto_commandHeaderFrame_of_errPad s .ledToggle hP hpad)⟩

/-! ### Decoding what was encoded -/

/-- The bytes below the payload_len are in `DEC_PAYLOAD` (R132). -/
theorem decodedPayload_of_lt_len (F : Frame) (i : Nat) (hi : i < 31)
    (h : i < (headerLen F).toNat) : (decodedPayload F)[i] = F[i + 1] := by
  rw [decodedPayload_getElem, if_pos h]

/-- FRM.ENC ends OK only with a payload length of at most 31, and then with its frame (R102). -/
theorem exec_frmEnc_ok {s t : State} {job : BitVec 3} {len : BitVec 6} {payload : Payload}
    (h : exec (.frmEnc job len payload) s = .next t) (hok : t.status = .ok) :
    len.toNat ≤ 31 ∧ t.txFrame = frmEncFrame job len payload := by
  obtain hlt | hle := Nat.lt_or_ge 31 len.toNat
  · obtain rfl := Host.Outcome.next.inj ((exec_frmEnc_of_lt_len job payload s hlt).symm.trans h)
    simp [afterRefusal] at hok
  · obtain rfl := Host.Outcome.next.inj ((exec_frmEnc_of_len_le job payload s hle).symm.trans h)
    exact ⟨hle, rfl⟩

/-- Settles O43: the decoder writes the header and the payload whatever its checks answer. -/
theorem roundTripRawFrames : Obligations.RoundTripRawFrames := by
  intro s t job len payload h hok
  obtain ⟨hle, hframe⟩ := exec_frmEnc_ok h hok
  obtain ⟨hjob, hlen, hpayload⟩ := decodeInto_header (frmEncFrame job len payload) t
  have hlenField : (headerLen (frmEncFrame job len payload)).toNat = len.toNat := by
    rw [frmEncFrame, headerLen_mkFrame, toNat_lenField (Nat.not_lt.2 hle)]
  rw [hframe]
  refine ⟨_, exec_frmDec _ t, hjob.trans (headerJob_mkFrame ..), ?_, fun k hk => ?_⟩
  · rw [hlen, hlenField]
  · rw [hpayload]
    have hbyte := frmEncFrame_succ job payload hle k k.isLt
    rw [if_pos hk] at hbyte
    exact (decodedPayload_of_lt_len _ k k.isLt (by rwa [hlenField])).trans hbyte

/-- CMD.INIT_PWM ends OK only with a duty it accepts, and then with its frame (R112). -/
theorem exec_cmdInitPwm_ok {s t : State} {freq duty : BitVec 32} {pin channel timer : Byte}
    (h : exec (.cmdInitPwm freq duty pin channel timer) s = .next t) (hok : t.status = .ok) :
    initPwmDutyOk duty ∧ t = afterEmit s (initPwmFrame s freq duty pin channel timer) .long := by
  by_cases hduty : initPwmDutyOk duty
  · rw [exec_cmdInitPwm_of_dutyOk freq pin channel timer s hduty] at h
    exact ⟨hduty, (Host.Outcome.next.inj h).symm⟩
  · rw [exec_cmdInitPwm_of_not_dutyOk freq pin channel timer s hduty] at h
    obtain rfl := Host.Outcome.next.inj h
    simp [afterRefusal] at hok

/-- CMD.SET_DUTY ends OK only with a duty within the limit, and then with its frame (R114). -/
theorem exec_cmdSetDuty_ok {s t : State} {duty : BitVec 32} {pin channel : Byte}
    (h : exec (.cmdSetDuty duty pin channel) s = .next t) (hok : t.status = .ok) :
    setDutyOk s.cfg duty ∧ t = afterEmit s (setDutyFrame s duty pin channel) .short := by
  by_cases hduty : setDutyOk s.cfg duty
  · rw [exec_cmdSetDuty_of_dutyOk pin channel s hduty] at h
    exact ⟨hduty, (Host.Outcome.next.inj h).symm⟩
  · rw [exec_cmdSetDuty_of_not_dutyOk pin channel s hduty] at h
    obtain rfl := Host.Outcome.next.inj h
    simp [afterRefusal] at hok

/-- FRM.DEC of a frame a command emitted, with a duty in range for SET_DUTY, answers OK with the
command's job and the fields the frame's bytes hold (R140). -/
theorem exec_frmDec_emitted (s : State) (cl : Settle) (c : Command) {p : List Byte} {F : Frame}
    (hF : F = mkFrame (s.cfg.jobCode.code c.job) (commandLen c) p)
    (hrange : c = .setDuty → setDutyValue s.cfgEndian F ≤ s.cfg.dutyLimit.val)
    {f : CommandFields} (hf : commandFields s.cfgEndian c F = f) :
    ∃ u : State, exec (.frmDec (afterEmit s F cl).txFrame) (afterEmit s F cl) = .next u ∧
      u.status = .ok ∧ u.decJob = s.cfg.jobCode.code c.job ∧ u.decFreq = f.freq ∧
      u.decDuty = f.duty ∧ u.decPin = f.pin ∧ u.decChannel = f.channel ∧ u.decTimer = f.timer := by
  have hjob : headerJob F = s.cfg.jobCode.code c.job := hF ▸ headerJob_mkFrame ..
  have hlen : headerLen F = commandLen c := hF ▸ headerLen_mkFrame ..
  have hpad : paddingZero F := hF ▸ paddingZero_mkFrame _ _ p
  have hdec := decodeInto_of_ok (afterEmit s F cl) F c hjob.symm hlen hpad hrange
  subst hf
  exact ⟨_, (exec_frmDec F _).trans (congrArg _ hdec), rfl, hjob, rfl, rfl, rfl, rfl, rfl⟩

theorem commandFields_initPwmFrame (s : State) (freq duty : BitVec 32) (pin channel timer : Byte) :
    commandFields s.cfgEndian .initPwm (initPwmFrame s freq duty pin channel timer) =
      { freq := freq, duty := dutyField duty, pin := pin, channel := channel, timer := timer } := by
  rw [initPwmFrame, commandFields_initPwm_mkFrame, ofNat_valE_bytesE_four, ofNat_valE_bytesE_two]

theorem commandFields_setDutyFrame (s : State) (duty : BitVec 32) (pin channel : Byte) :
    commandFields s.cfgEndian .setDuty (setDutyFrame s duty pin channel) =
      { duty := dutyField duty, pin := pin, channel := channel } := by
  rw [commandFields, setDutyFrame, setDutyValue_mkFrame, BitVec.ofNat_toNat, BitVec.setWidth_eq]
  simp [commandLen, mkFrame_getElem, setDutyPayload, bytesE, List.range_succ]

/-- Settles O44: the emitted frame passes every check, and its fields read back in the order they were
written. -/
theorem roundTripCommands : Obligations.RoundTripCommands := by
  intro s t hok
  refine ⟨?_, ?_, ?_, ?_⟩
  · intro freq duty pin channel timer h
    obtain ⟨hduty, rfl⟩ := exec_cmdInitPwm_ok h hok
    obtain ⟨u, he, hstatus, hjob, hfreq, hdec, hrest⟩ := exec_frmDec_emitted s .long .initPwm rfl
      nofun (commandFields_initPwmFrame s freq duty pin channel timer)
    exact ⟨u, he, hstatus, hjob, hfreq, hdec ▸ dutyField_toNat hduty, hrest⟩
  · intro duty pin channel h
    obtain ⟨hduty, rfl⟩ := exec_cmdSetDuty_ok h hok
    have hrange : setDutyValue s.cfgEndian (setDutyFrame s duty pin channel) ≤
        s.cfg.dutyLimit.val := by
      have hvalue := setDutyValue_setDutyFrame s pin channel hduty
      obtain ⟨-, hlimit⟩ := hduty
      omega
    obtain ⟨u, he, hstatus, hjob, -, hdec, hpin, hchannel, -⟩ := exec_frmDec_emitted s .short
      .setDuty rfl (fun _ => hrange) (commandFields_setDutyFrame s duty pin channel)
    exact ⟨u, he, hstatus, hjob, hdec ▸ dutyField_toNat (initPwmDutyOk_of_setDutyOk hduty), hpin,
      hchannel⟩
  · intro h
    obtain rfl := Host.Outcome.next.inj ((exec_cmdRestart s).symm.trans h)
    obtain ⟨u, he, hstatus, hjob, -⟩ := exec_frmDec_emitted s .short .restart rfl nofun rfl
    exact ⟨u, he, hstatus, hjob⟩
  · intro h
    obtain rfl := Host.Outcome.next.inj ((exec_cmdLedToggle s).symm.trans h)
    obtain ⟨u, he, hstatus, hjob, -⟩ := exec_frmDec_emitted s .short .ledToggle rfl nofun rfl
    exact ⟨u, he, hstatus, hjob⟩

/-! ### Encoding what was decoded -/

/-- The command operation with the given fields, the duty widened to the port's operand (R76). -/
def commandOperation (f : CommandFields) : Command → Instr
  | .initPwm => .cmdInitPwm f.freq (f.duty.setWidth 32) f.pin f.channel f.timer
  | .setDuty => .cmdSetDuty (f.duty.setWidth 32) f.pin f.channel
  | .restart => .cmdRestart
  | .ledToggle => .cmdLedToggle

/-- The payload a command packs its fields into (R111, R115, R117, R119). -/
def commandPayload (e : Endian) (f : CommandFields) : Command → List Byte
  | .initPwm => initPwmPayload e f.freq f.duty f.pin f.channel f.timer
  | .setDuty => setDutyPayload e f.duty f.pin f.channel
  | .restart => []
  | .ledToggle => []

/-- The frame of a command with the given fields (R101). -/
def commandFrame (s : State) (f : CommandFields) (c : Command) : Frame :=
  mkFrame (s.cfg.jobCode.code c.job) (commandLen c) (commandPayload s.cfgEndian f c)

/-- A duty field widened to the port's operand keeps its value (R76, R78). -/
theorem toInt_setWidth_duty (d : BitVec 16) : (d.setWidth 32).toInt = d.toNat := by
  have hd : d.toNat < 65536 := d.isLt
  have hwide : (d.setWidth 32).toNat = d.toNat := by
    rw [BitVec.toNat_setWidth]
    omega
  rw [BitVec.toInt_eq_toNat_of_lt (by omega), hwide]

theorem dutyField_setWidth (d : BitVec 16) : dutyField (d.setWidth 32) = d := by
  have hd : d.toNat < 65536 := d.isLt
  apply BitVec.eq_of_toNat_eq
  simp only [dutyField, BitVec.extractLsb'_toNat, BitVec.toNat_setWidth, Nat.shiftRight_zero]
  omega

/-- The operation of a command emits the command's frame; only SET_DUTY of a duty over the limit is
refused. -/
theorem exec_commandOperation (s : State) (f : CommandFields) (c : Command)
    (hrange : c = .setDuty → f.duty.toNat ≤ s.cfg.dutyLimit.val) :
    ∃ cl, exec (commandOperation f c) s = .next (afterEmit s (commandFrame s f c) cl) := by
  have hvalue := toInt_setWidth_duty f.duty
  cases c with
  | initPwm =>
    have hduty : initPwmDutyOk (f.duty.setWidth 32) := by
      have hlt : f.duty.toNat < 65536 := f.duty.isLt
      rw [initPwmDutyOk, hvalue]
      omega
    refine ⟨.long, (exec_cmdInitPwm_of_dutyOk _ _ _ _ s hduty).trans ?_⟩
    rw [initPwmFrame, dutyField_setWidth]
    rfl
  | setDuty =>
    have hduty : setDutyOk s.cfg (f.duty.setWidth 32) := by
      have hle := hrange rfl
      rw [setDutyOk, hvalue]
      omega
    refine ⟨.short, (exec_cmdSetDuty_of_dutyOk _ _ s hduty).trans ?_⟩
    rw [setDutyFrame, dutyField_setWidth]
    rfl
  | restart => exact ⟨.short, exec_cmdRestart s⟩
  | ledToggle => exact ⟨.short, exec_cmdLedToggle s⟩

/-- Packing the fields read from a frame gives back the payload bytes they were read from. -/
theorem commandPayload_commandFields (e : Endian) (c : Command) (F : Frame) :
    commandPayload e (commandFields e c F) c =
      (bodyOf F).toList.take (commandLen c).toNat := by
  cases c with
  | initPwm =>
    rw [commandFields_initPwm]
    simp only [commandPayload, initPwmPayload, bytesE_four, bytesE_two, bytes32_word32,
      bytes16_word16]
    simp [commandLen, bodyOf, Vector.toList_ofFn, List.ofFn_succ]
  | setDuty =>
    rw [commandFields_setDuty]
    simp only [commandPayload, setDutyPayload, bytesE_two, bytes16_word16]
    simp [commandLen, bodyOf, Vector.toList_ofFn, List.ofFn_succ]
  | restart => rfl
  | ledToggle => rfl

/-- The framing function reads `L` bytes of the payload (R101). -/
theorem mkFrame_take (j : BitVec 3) (L : BitVec 5) (p : List Byte) :
    mkFrame j L (p.take L.toNat) = mkFrame j L p := by
  ext i hi : 1
  cases i with
  | zero => rw [mkFrame_zero, mkFrame_zero]
  | succ i =>
    rw [mkFrame_succ, mkFrame_succ]
    split
    · next hlt => simp [List.getD_eq_getElem?_getD, hlt]
    · rfl

/-- An accepted frame is the frame of its command with the fields read from it (R141). -/
theorem commandFrame_commandFields {s : State} {F : Frame} {c : Command}
    (h : decodeCheck s.cfg s.cfgEndian F = .ok c) :
    commandFrame s (commandFields s.cfgEndian c F) c = F := by
  obtain ⟨hj, hlen, hpad, -⟩ := (decodeCheck_eq_ok_iff ..).1 h
  rw [commandFrame, commandPayload_commandFields, mkFrame_take, hj, ← hlen]
  exact mkFrame_of_paddingZero F hpad

/-- Settles O45: the checks that accept the frame are those the command operation makes, and packing
undoes the reading of the fields. -/
theorem acceptedFramesAreEmittedFrames : Obligations.AcceptedFramesAreEmittedFrames := by
  intro s t F h hok
  obtain rfl := Host.Outcome.next.inj ((exec_frmDec F s).symm.trans h)
  obtain ⟨c, hcheck, he⟩ := decodeInto_of_status_ok hok
  obtain ⟨hj, -, -, hduty⟩ := (decodeCheck_eq_ok_iff ..).1 hcheck
  have hrange : c = .setDuty →
      (commandFields s.cfgEndian c F).duty.toNat ≤ s.cfg.dutyLimit.val := by
    rintro rfl
    exact (commandFields_setDuty_duty_le s.cfgEndian F).trans (hduty rfl)
  rw [he]
  obtain ⟨cl, hexec⟩ := exec_commandOperation
    (fail .ok (writeFields (commandFields s.cfgEndian c F) (writeHeader F s))) _ c hrange
  refine ⟨_, _, hexec, rfl, commandFrame_commandFields hcheck, ?_⟩
  cases c with
  | initPwm => exact .inl ⟨hj.symm, rfl⟩
  | setDuty => exact .inr (.inl ⟨hj.symm, rfl⟩)
  | restart => exact .inr (.inr (.inl ⟨hj.symm, rfl⟩))
  | ledToggle => exact .inr (.inr (.inr ⟨hj.symm, rfl⟩))

/-- A command's fields are its five registers (R35). -/
theorem commandFields_eq_of_registers_eq {f g : CommandFields} (hfreq : f.freq = g.freq)
    (hduty : f.duty = g.duty) (hpin : f.pin = g.pin) (hchannel : f.channel = g.channel)
    (htimer : f.timer = g.timer) : f = g := by
  cases f
  cases g
  simp_all

/-- Settles O46: both frames are the frame of one command with one set of fields. -/
theorem acceptedFramesDecodeOneToOne : Obligations.AcceptedFramesDecodeOneToOne := by
  intro s t₁ t₂ F₁ F₂ h₁ h₂ hok₁ hok₂ hjob hfreq hduty hpin hchannel htimer
  obtain rfl := Host.Outcome.next.inj ((exec_frmDec F₁ s).symm.trans h₁)
  obtain rfl := Host.Outcome.next.inj ((exec_frmDec F₂ s).symm.trans h₂)
  obtain ⟨c₁, hcheck₁, he₁⟩ := decodeInto_of_status_ok hok₁
  obtain ⟨c₂, hcheck₂, he₂⟩ := decodeInto_of_status_ok hok₂
  rw [he₁, he₂] at hjob hfreq hduty hpin hchannel htimer
  obtain ⟨hj₁, -⟩ := (decodeCheck_eq_ok_iff ..).1 hcheck₁
  obtain ⟨hj₂, -⟩ := (decodeCheck_eq_ok_iff ..).1 hcheck₂
  obtain rfl : c₁ = c₂ := command_eq_of_code_eq s.cfg.jobCode (hj₁.trans (hjob.trans hj₂.symm))
  have hfields : commandFields s.cfgEndian c₁ F₁ = commandFields s.cfgEndian c₁ F₂ :=
    commandFields_eq_of_registers_eq hfreq hduty hpin hchannel htimer
  rw [← commandFrame_commandFields hcheck₁, ← commandFrame_commandFields hcheck₂, hfields]

end Sys2Proof.Proofs.Decode
end

section
/-! PROOFS. The statement of spec/60_exceptions.md: the reserved operation codes (R158). -/

namespace Sys2Proof.Proofs.Exceptions

open Sys2Proof.Machine Sys2Proof.Certificates

/-! ### The reserved operations -/

theorem exec_reserved6 (s : State) : exec .reserved6 s = .next (reservedOp s) := rfl

theorem exec_reserved7 (s : State) : exec .reserved7 s = .next (reservedOp s) := rfl

/-- `STATUS` is the one register a reserved operation writes (R158). -/
theorem reservedOp_eq (s : State) : reservedOp s = { s with status := .errOp } :=
  reservedOp_eq_fail s

/-- Settles O31: both operations are the one reserved operation, which only fails. -/
theorem reservedOpsOnlyReportErrOp : Obligations.ReservedOpsOnlyReportErrOp := by
  intro s
  rw [exec_reserved6, exec_reserved7, reservedOp_eq]
  exact ⟨rfl, rfl⟩

end Sys2Proof.Proofs.Exceptions
end

section
/-! PROOFS. The statement of spec/70_reset_and_hazards.md: the block waits for the host (R170, R180). -/

namespace Sys2Proof.Proofs.ResetAndHazards

open Sys2Proof.Machine Sys2Proof.Certificates

/-! ### Waiting -/

/-- The step rule for a host that presents nothing, beside `step_of_present` and `step_of_reset`. -/
theorem step_of_nothing_presented {s : State} (h : s.port = []) : step s = .next s := by
  simp only [step, stepPort, h]

/-- Settles O12, by the step rule for a port with nothing presented. -/
theorem stepWithNothingPresentedWaits : Obligations.StepWithNothingPresentedWaits :=
  fun _ => step_of_nothing_presented

end Sys2Proof.Proofs.ResetAndHazards
end
